-- ==== Sys2Proof/Word.lean ====
section
/-!
DEFINITION. The word types of the Stegonosaurus CORE (spec/00_scope.md rule R7: bytes and bit
numbering; spec/10_state.md rule R31: 32-bit registers).
-/

namespace Sys2Proof

/-- A byte, also read as a field element: bit `i` is the coefficient of `x^i` (R7). -/
abbrev Byte := BitVec 8

/-- A 16-bit value: the polynomial operand of GF_REDUCE, an image width or height (R32, R154). -/
abbrev Half := BitVec 16

/-- A 32-bit register, command word or data-space address (R31, R100). -/
abbrev Word := BitVec 32

end Sys2Proof
end

