-- ==== Sys2Proof/Config.lean ====
section
/-!
DEFINITION. What a build of the block fixes (spec/00_scope.md rule R6; spec/20_memory.md
rule R100) and the free values: what the
spec says is "any value" (spec/93_implementation_defined.md part 1), as constants without a body, so
that nothing can be proved about which value they are (DESIGN CHOICE, notes/assumptions/9.md).
-/

namespace Sys2Proof

/-- Which state axis ShiftRows and MixColumns act on (R6 `ORIENT`, R278, decision D30). -/
inductive Orient where
  | rows
  | columns
deriving DecidableEq, Repr

/-- What CBC_DEC reports when the pad byte is impossible (R6 `UNPAD_POLICY`, R353, decision D27). -/
inductive UnpadPolicy where
  | zero
  | draw
deriving DecidableEq, Repr

/-- The build-time parameters of rule R6, and `REG_BASE` of rule R100. A build is plain data carried by the machine's state and
changed by no step, so that a statement about every state is a statement about every build
(notes/assumptions/1.md). -/
structure Build where
  /-- `ORIENT`. -/
  orient : Orient
  /-- `AFFINE_ROW[0..7]`: row `i` masks the input bits that feed output bit `i` (R205). -/
  affineRow : Vector Byte 8
  /-- `AFFINE_CONST` (R205). -/
  affineConst : Byte
  /-- The bytes that are NOT characters: `VALID_BYTE(b)` holds when `b` is not listed (R409). DESIGN
  CHOICE of the form (notes/assumptions/17.md). -/
  invalidBytes : List Byte
  /-- `UNPAD_POLICY` (R353). -/
  unpadPolicy : UnpadPolicy
  /-- `MEM_SIZE`: the bytes `0 .. memSize - 1` of the data space exist (R100). -/
  memSize : Nat
  /-- `REG_BASE`: where the platform puts the 4 KiB register window in the host's address map (R100). The
  width of that map is not stated, so a host address is a number (notes/assumptions/25.md). -/
  regBase : Nat
  /-- The first answers of the entropy function `Rng`, in draw order, where a build lists them
  (R452, decision D46: "explicit draw lists"); past the list the function is `Config.rng`. DESIGN CHOICE
  (notes/assumptions/16.md). -/
  draws : List Nat
deriving DecidableEq, Repr

/-- The default build: every default that rule R6 states, the affine defaults of rule R206, no listed
draws, `MEM_SIZE = 0x10000` and `REG_BASE = 0`. The affine defaults are PRESUMED by the spec
(notes/assumptions/21.md). DESIGN CHOICE (notes/assumptions/2.md, notes/assumptions/25.md): R6 leaves
`MEM_SIZE` open and R100 leaves `REG_BASE` open. -/
def Build.default : Build :=
  { orient := .rows
    affineRow := #v[0xF1, 0xE3, 0xC7, 0x8F, 0x1F, 0x3E, 0x7C, 0xF8]
    affineConst := 0x63
    invalidBytes := []
    unpadPolicy := .zero
    memSize := 0x10000
    regBase := 0
    draws := [] }

/-- `ROUNDS`, the same for every key length (R6, R258). -/
abbrev rounds : Nat := 16

/-- An unconstrained byte: the `n`-th byte that the spec says is any value (R114, R115, R582). -/
opaque Config.freeByte : Nat → BitVec 8

/-- An unconstrained word: an `OUT_LEN` that the spec says is any value or does not state (R114). -/
opaque Config.freeWord : Nat → BitVec 32

/-- An unconstrained number, from which "any value in [0, m]" is taken (R353, `UNPAD_POLICY = DRAW`). -/
opaque Config.freeNat : Nat → Nat

/-- The open entropy function before it is brought into its range (R452): seed, draw index, bound. -/
opaque Config.rng : BitVec 32 → Nat → Nat → Nat

end Sys2Proof
end

