-- ==== Sys2Proof/Machine/Field.lean ====
section
/-!
DEFINITION. The field functions of GF(2^8) (spec/40_galois_field.md rules R200 to R208): pure
functions, used by every other family.
-/

namespace Sys2Proof.Machine

/-- Carry-less product of two bytes as binary polynomials, without reduction (R200). -/
def clmul (a b : Byte) : Half :=
  (List.range 8).foldl (fun r i => bif b.getLsbD i then r ^^^ (a.setWidth 16 <<< i) else r) 0

/-- One step of R201's loop: clears bit `k` with a shifted copy of the modulus 0x11B if it is set. -/
def reduceStep (p : Half) (k : Nat) : Half :=
  bif p.getLsbD k then p ^^^ ((0x11B : Half) <<< (k - 8)) else p

/-- Remainder of a 16-bit polynomial modulo 0x11B: bits 15 down to 8 are cleared in turn (R201). -/
def reduce (p : Half) : Byte :=
  ([15, 14, 13, 12, 11, 10, 9, 8].foldl reduceStep p).setWidth 8

/-- Field multiplication (R202). -/
def fmul (a b : Byte) : Byte := reduce (clmul a b)

/-- Multiplication by `x`: shift left, and exclusive-or with 0x1B if the old high bit was set (R203). -/
def xtime (a : Byte) : Byte := bif a.msb then (a <<< 1) ^^^ 0x1B else a <<< 1

/-- The search order of R204: the bytes 1 .. 255. -/
def nonzeroBytes : List Byte := (List.range 255).map fun k => BitVec.ofNat 8 (k + 1)

/-- Inverse by exhaustive search, with `inv 0 = 0` (R204). -/
def inv (a : Byte) : Byte :=
  if a = 0 then 0 else (nonzeroBytes.find? fun i => fmul a i == 1).getD 0

/-- Exclusive-or of all the bits of a byte (R205). -/
def parity (b : Byte) : Bool := (List.range 8).foldl (fun r i => r ^^ b.getLsbD i) false

/-- The matrix part of the affine step: bit `i` of the result is the parity of row `i` and the operand
(R205). -/
def affineLinear (rows : Vector Byte 8) (b : Byte) : Byte :=
  (List.finRange 8).foldl
    (fun r i => r ||| ((BitVec.ofBool (parity (rows[i] &&& b))).setWidth 8 <<< i.val)) 0

/-- The affine step of the S-box: the matrix applied to the operand, exclusive-or the constant (R205;
the constant's bit `i` is added to output bit `i`). -/
def affine (bld : Build) (b : Byte) : Byte := affineLinear bld.affineRow b ^^^ bld.affineConst

/-- One S-box entry: the inverse, then the affine step (R208). -/
def sboxEntry (bld : Build) (x : Byte) : Byte := affine bld (inv x)

/-- The affine matrix is invertible over GF(2): no nonzero byte is taken to zero (R207). The default
matrix is looked at first, because it is known to be one (R206). -/
def affineInvertible (rows : Vector Byte 8) : Bool :=
  rows == Build.default.affineRow || nonzeroBytes.all fun b => affineLinear rows b != 0

end Sys2Proof.Machine
end

