-- ==== Sys2Proof/Syntax.lean ====
section
/-!
DEFINITION. The command set SCMD v1 (spec/30_encoding.md rule R152): one constructor per row of
spec/opcode_table.json. No command has an immediate or an operand field: every operand is a register
(rule R154), so no constructor has an argument.
-/

namespace Sys2Proof

/-- The eighteen commands of rule R152. -/
inductive Instr where
  /-- 0x00, R500 -/
  | nop
  /-- 0x01, R210 -/
  | gfPmul
  /-- 0x02, R211 -/
  | gfReduce
  /-- 0x03, R212 -/
  | gfXtime
  /-- 0x04, R213 -/
  | gfMul
  /-- 0x05, R214 -/
  | gfInv
  /-- 0x06, R215 -/
  | gfAffine
  /-- 0x07, R216 -/
  | gfSbox
  /-- 0x08, R270 -/
  | sboxLookup
  /-- 0x09, R271 -/
  | invsboxLookup
  /-- 0x10, R260 -/
  | keyInit
  /-- 0x11, R290 -/
  | encBlock
  /-- 0x12, R291 -/
  | decBlock
  /-- 0x13, R354 -/
  | cbcEnc
  /-- 0x14, R355 -/
  | cbcDec
  /-- 0x20, R406 -/
  | embed
  /-- 0x21, R411 -/
  | extract
  /-- 0x30, R455 -/
  | noise
deriving DecidableEq, Repr

/-- Every command, in the order of rule R152. -/
def Instr.all : List Instr :=
  [.nop, .gfPmul, .gfReduce, .gfXtime, .gfMul, .gfInv, .gfAffine, .gfSbox, .sboxLookup,
   .invsboxLookup, .keyInit, .encBlock, .decBlock, .cbcEnc, .cbcDec, .embed, .extract, .noise]

end Sys2Proof
end

