-- ==== Sys2Proof/WellFormed.lean ====
section
/-!
DEFINITION. Which command words, commands and builds are well formed (spec/30_encoding.md rule R150,
spec/00_scope.md rule R6, spec/40_galois_field.md rule R207).
-/

namespace Sys2Proof

/-- A command has no operand field (R154), so every command is well formed. -/
def Instr.wellFormed (_ : Instr) : Bool := true

/-- The command codes of rule R152. -/
def commandCodes : List Byte :=
  [0x00, 0x01, 0x02, 0x03, 0x04, 0x05, 0x06, 0x07, 0x08, 0x09, 0x10, 0x11, 0x12, 0x13, 0x14,
   0x20, 0x21, 0x30]

/-- The reserved field `RSVD`, bits 31:8, is zero (R150). -/
def wordReservedClear (v : Word) : Bool := v.extractLsb' 8 24 == 0

/-- The field `CMD`, bits 7:0, is a code of rule R152 (R150). -/
def wordCodeKnown (v : Word) : Bool := commandCodes.contains (v.extractLsb' 0 8)

/-- A command word is valid (R150). -/
def wordValid (v : Word) : Bool := wordReservedClear v && wordCodeKnown v

/-- `MEM_SIZE` is between 1 and 2^32 (R100). -/
def Build.memSizeValid (b : Build) : Bool := 1 ≤ b.memSize && b.memSize ≤ 2 ^ 32

/-- The build is an instance of this hardware: `MEM_SIZE` is legal (R100) and the affine matrix is
invertible (R207: "a model refuses it" otherwise). -/
def Build.wellFormed (b : Build) : Bool :=
  b.memSizeValid && Machine.affineInvertible b.affineRow

end Sys2Proof
end

