-- ==== Sys2Proof/Decode.lean ====
section
/-!
DEFINITION. The command decoder and encoder (spec/30_encoding.md rules R150 to R153). A command is one
aligned 32-bit write to `CTRL`; there is no other length and no prefix (rule R151).
-/

namespace Sys2Proof

/-- Why a `CTRL` value is not a command (R153). -/
inductive DecodeError where
  /-- Bits 31:8 are not all zero. -/
  | reservedBits
  /-- Bits 7:0 are no code of rule R152. -/
  | unknownCommand (cmd : Byte)
deriving DecidableEq, Repr

/-- The command code of rule R152. -/
def Instr.code : Instr → Byte
  | .nop => 0x00
  | .gfPmul => 0x01
  | .gfReduce => 0x02
  | .gfXtime => 0x03
  | .gfMul => 0x04
  | .gfInv => 0x05
  | .gfAffine => 0x06
  | .gfSbox => 0x07
  | .sboxLookup => 0x08
  | .invsboxLookup => 0x09
  | .keyInit => 0x10
  | .encBlock => 0x11
  | .decBlock => 0x12
  | .cbcEnc => 0x13
  | .cbcDec => 0x14
  | .embed => 0x20
  | .extract => 0x21
  | .noise => 0x30

/-- The command map of rule R152, read from code to command. -/
def commandOfCode (c : Byte) : Option Instr :=
  match c.toNat with
  | 0x00 => some .nop
  | 0x01 => some .gfPmul
  | 0x02 => some .gfReduce
  | 0x03 => some .gfXtime
  | 0x04 => some .gfMul
  | 0x05 => some .gfInv
  | 0x06 => some .gfAffine
  | 0x07 => some .gfSbox
  | 0x08 => some .sboxLookup
  | 0x09 => some .invsboxLookup
  | 0x10 => some .keyInit
  | 0x11 => some .encBlock
  | 0x12 => some .decBlock
  | 0x13 => some .cbcEnc
  | 0x14 => some .cbcDec
  | 0x20 => some .embed
  | 0x21 => some .extract
  | 0x30 => some .noise
  | _ => none

/-- The command that a `CTRL` value is, or why it is none (R150, R153). -/
def decode (v : Word) : Except DecodeError Instr :=
  if v.extractLsb' 8 24 = 0 then
    match commandOfCode (v.extractLsb' 0 8) with
    | some i => .ok i
    | none => .error (.unknownCommand (v.extractLsb' 0 8))
  else .error .reservedBits

/-- The command word of a command: its code in bits 7:0, zero above (R150). -/
def encode (i : Instr) : Word := i.code.setWidth 32

/-- The command that the decoder reads from a table row's bits: one 32-bit word, bit 0 its least
significant bit, the bits above `nbits` zero. -/
def decodeTableWord (nbits w : Nat) : Option Instr :=
  if w % 2 ^ nbits < 2 ^ 32 then (decode (BitVec.ofNat 32 (w % 2 ^ nbits))).toOption else none

end Sys2Proof
end

