-- ==== Sys2Proof/Machine/State.lean ====
section
/-!
DEFINITION. The machine's state as plain data (spec/10_state.md rules R30 to R46), the inputs that reach
it, its faults and refusals, and the state after reset (spec/70_reset_and_hazards.md rule R580).
-/

namespace Sys2Proof.Machine

/-- The 16 bytes of a block or of a round key, row-major: byte `4i + j` is row `i`, column `j` (R275,
R256). -/
abbrev Block := Vector Byte 16

/-- The cipher instance of rule R40: the tables that the last successful KEY_INIT installed. -/
structure Cipher where
  sbox : Vector Byte 256
  invSbox : Vector Byte 256
  rcon : Vector Byte 256
  /-- Round keys `0 .. ROUNDS`. -/
  rk : Vector Block 17
deriving DecidableEq, Repr

/-- The table contents the model starts with. DESIGN CHOICE (notes/assumptions/3.md): R580 leaves them
unspecified and lets a model take any value; nothing reads them while `KEY_VALID = 0`. -/
def Cipher.blank : Cipher :=
  { sbox := Vector.replicate 256 0
    invSbox := Vector.replicate 256 0
    rcon := Vector.replicate 256 0
    rk := Vector.replicate 17 (Vector.replicate 16 0) }

/-- The data space: listed bytes, addresses strictly rising, no listed byte equal to what an unlisted
address reads as (R100). -/
abbrev Memory := List Host.Cell

/-- The width of a register-port access (R110). -/
inductive AccessWidth where
  | byte
  | half
  | word
deriving DecidableEq, Repr

/-- One register-port transaction (R100, R110, R170): direction, byte offset, width and write data. -/
structure PortAccess where
  write : Bool
  offset : BitVec 12
  width : AccessWidth
  data : Word
deriving DecidableEq, Repr

/-- A register access as the host issues it: at an address of the host's own map, in which the platform
places the port at `REG_BASE` (R100). -/
structure HostAccess where
  write : Bool
  addr : Nat
  width : AccessWidth
  data : Word
deriving DecidableEq, Repr

/-- An input of the block, or a turn of its engine. The order of the list that holds them is the order
in which they happen (notes/assumptions/4.md). -/
inductive Event where
  /-- A register read or write as the port receives it, with its byte offset (R32 to R35, R110). -/
  | port (t : PortAccess)
  /-- A register read or write as the host issues it, with its host address (R100). -/
  | host (h : HostAccess)
  /-- The command in progress completes now: latency is finite and otherwise unspecified (R164, R595). -/
  | engine
  /-- The platform answers a DMA access of the command in progress with a bus error (R115). -/
  | busError
  /-- Another agent writes one byte of the data space (R113, R114). -/
  | agentWrite (a : Word) (v : Byte)
  /-- Another agent reads one byte of the data space (R114). -/
  | agentRead (a : Word)
  /-- The reset input is asserted (R581, R582). -/
  | resetAssert
  /-- The reset input is released (R581). -/
  | resetRelease
deriving DecidableEq, Repr

/-- What has disturbed the command in progress since its accept (R114, R115). -/
structure Hazard where
  /-- The platform answered one of its DMA accesses with a bus error. -/
  busError : Bool := false
  /-- Another agent wrote a byte of one of its read buffers. -/
  readHit : Bool := false
  /-- The bytes of its write buffers that another agent wrote. -/
  writeHits : List Nat := []
deriving DecidableEq, Repr

/-- The completion codes of `STATUS.ERR` (R521). -/
inductive ErrCode where
  | ok
  | cmd
  | keyLen
  | noKey
  | blkLen
  | ctLen
  | empty
  | capacity
  | chan
  | geom
  | range
  | overlap
  | bus
deriving DecidableEq, Repr

/-- The whole machine. Registers of rule R32 under their own names; `ID` and `VERSION` are constants of
the port, `STATUS`, `IRQ_EN` and `IRQ_STATUS` are held field by field (their other bits read 0). -/
structure State where
  /-- `CTRL`: the last accepted command word. -/
  ctrl : Word
  /-- `STATUS.BUSY`. -/
  busy : Bool
  /-- `STATUS.DONE`. -/
  done : Bool
  /-- `STATUS.KEY_VALID`. -/
  keyValid : Bool
  /-- `STATUS.ERR`. -/
  err : Byte
  /-- `IRQ_EN.DONE_IE`. -/
  doneIe : Bool
  /-- `IRQ_EN.WBUSY_IE`. -/
  wbusyIe : Bool
  /-- `IRQ_STATUS.DONE_IP`. -/
  doneIp : Bool
  /-- `IRQ_STATUS.WBUSY_IP`. -/
  wbusyIp : Bool
  opa : Word
  opb : Word
  res : Word
  keyLen : Byte
  /-- `KEY0 .. KEY7`. -/
  key : Vector Word 8
  /-- `IV0 .. IV3`. -/
  iv : Vector Word 4
  srcAddr : Word
  dstAddr : Word
  len : Word
  auxAddr : Word
  outLen : Word
  imgW : Half
  imgH : Half
  imgC : Byte
  bitpos : Word
  noiseMilli : Word
  rngSeed : Word
  maxExtract : Word
  /-- The cipher instance (R40). -/
  cipher : Cipher
  /-- The data space (R100). -/
  mem : Memory
  /-- The reset input is asserted (R581). -/
  inReset : Bool
  /-- Model's own: the data the port answered to the last register access (0 to a write). -/
  portData : Word
  /-- Model's own: the last register access received a bus error response (R110). -/
  portError : Bool
  /-- Model's own: the byte the last read by another agent returned (R114). -/
  agentData : Byte
  /-- Model's own: what has disturbed the command in progress (R114, R115). -/
  hazard : Hazard
  /-- Model's own: how many free values have been consumed. -/
  freeIx : Nat
  /-- Model's own: the inputs still to come, the next one first. -/
  inbox : List Event
  /-- The build's parameters (R6); no step changes them. -/
  build : Build
deriving DecidableEq, Repr

/-- Why the model stops with a fault. -/
inductive Fault where
  /-- Raised by a read or write of ANOTHER agent at a data-space address that does not exist, at or above
  `MEM_SIZE` (R100). No command of the block raises it: a command's own buffers are range checked (R103).
  Safe: the model stops where the platform would answer in its own way. -/
  | absentAddress (a : Word)
deriving DecidableEq, Repr

/-- Why the model refuses to go on. -/
inductive Refusal where
  /-- Raised by an arm of `exec` whose instruction has no meaning yet; no arm does. Safe. -/
  | notModelled (mnemonic : String)
  /-- Raised by a step of a build that is no instance of this hardware: a singular affine matrix, which
  "a model refuses" (R207), or a `MEM_SIZE` outside 1 .. 2^32 (R100). Safe. -/
  | illegalBuild
deriving DecidableEq, Repr

/-- The machine right after reset (R580): every register 0 but `MAX_EXTRACT`, nothing pending, no cipher
instance, the default build. The data space lists nothing (notes/assumptions/5.md), the tables are
`Cipher.blank` (notes/assumptions/3.md) and the model's own fields are empty (notes/assumptions/6.md). -/
def State.reset : State :=
  { ctrl := 0
    busy := false
    done := false
    keyValid := false
    err := 0
    doneIe := false
    wbusyIe := false
    doneIp := false
    wbusyIp := false
    opa := 0
    opb := 0
    res := 0
    keyLen := 0
    key := Vector.replicate 8 0
    iv := Vector.replicate 4 0
    srcAddr := 0
    dstAddr := 0
    len := 0
    auxAddr := 0
    outLen := 0
    imgW := 0
    imgH := 0
    imgC := 0
    bitpos := 0
    noiseMilli := 0
    rngSeed := 0
    maxExtract := 10000
    cipher := Cipher.blank
    mem := []
    inReset := false
    portData := 0
    portError := false
    agentData := 0
    hazard := {}
    freeIx := 0
    inbox := []
    build := Build.default }

end Sys2Proof.Machine
end

