-- ==== Sys2Proof/Machine/Codec.lean ====
section
/-!
DEFINITION. The bit-plane codec's pure functions (spec/43_bitplane_codec.md rules R400 to R410).
-/

namespace Sys2Proof.Machine

/-- Byte offset, in an image of `c` channels, of channel position `k` of carrier group `g` (R400). -/
def cpos (c g k : Nat) : Nat := (3 * g + k / 3) * c + k % 3

/-- Data bit `k` of a payload byte, most significant first (R402). -/
def dataBit (b : Byte) (k : Nat) : Bool := b.getLsbD (7 - k)

/-- The byte whose data bits 0 .. 7 are given (R402). -/
def assembleByte (c : Nat → Bool) : Byte :=
  (List.range 8).foldl (fun b k => b ||| ((BitVec.ofBool (c k)).setWidth 8 <<< (7 - k))) 0

/-- Bit `p` of a channel value (R403). -/
def getBit (v : Byte) (p : Nat) : Bool := (v >>> p).getLsbD 0

/-- A channel value with bit `p` set to `t` (R403). -/
def setBit (v : Byte) (p : Nat) (t : Bool) : Byte :=
  (v &&& ~~~((1 : Byte) <<< p)) ||| ((BitVec.ofBool t).setWidth 8 <<< p)

/-- The continuation marker of group `g` of a payload of `n` bytes: set when more bytes follow (R404). -/
def marker (n g : Nat) : Bool := g + 1 < n

/-- The bit that position `k` of group `g` carries: data at positions 0 .. 7, the marker at 8 (R405). -/
def carriedBit (pay : List Byte) (g k : Nat) : Bool :=
  if k < 8 then dataBit (pay.getD g 0) k else marker pay.length g

/-- The channel positions that carry a payload of `n` bytes, in the order R405 writes them. -/
def carrierPositions (n : Nat) : List (Nat × Nat) :=
  (List.range n).flatMap fun g => (List.range 9).map fun k => (g, k)

/-- The embedded image (R405): every carried bit is written into a copy of the image. -/
def embedImage (img : List Byte) (c : Nat) (pay : List Byte) (p : Nat) : List Byte :=
  (carrierPositions pay.length).foldl
    (fun out gk =>
      let a := cpos c gk.1 gk.2
      out.set a (setBit (img.getD a 0) p (carriedBit pay gk.1 gk.2)))
    img

/-- The bit read at position `k` of group `g` (R410). -/
def readCarrier (img : List Byte) (c p g k : Nat) : Bool := getBit (img.getD (cpos c g k) 0) p

/-- The byte read from group `g` (R410). -/
def readGroup (img : List Byte) (c p g : Nat) : Byte := assembleByte (readCarrier img c p g)

/-- The extraction loop from group `g`, `room` being how many characters the cutoff still allows (R410):
the cutoff is tested first, then exhaustion, then the byte's validity, then the marker. -/
def extractFrom (valid : Byte → Bool) (img : List Byte) (pixels c p : Nat) :
    (room g : Nat) → List Byte
  | 0, _ => []
  | room + 1, g =>
    if pixels < 3 * g + 3 then []
    else if valid (readGroup img c p g) then
      readGroup img c p g ::
        bif readCarrier img c p g 8 then extractFrom valid img pixels c p room (g + 1) else []
    else []

/-- `VALID_BYTE` of a build (R409). -/
def validByte (bld : Build) (b : Byte) : Bool := !bld.invalidBytes.contains b

/-- The extracted characters (R410). -/
def extractImage (bld : Build) (img : List Byte) (pixels c p max : Nat) : List Byte :=
  extractFrom (validByte bld) img pixels c p max 0

end Sys2Proof.Machine
end

