-- ==== Sys2Proof/Machine/Flags.lean ====
section
/-!
DEFINITION. The status and interrupt words (spec/10_state.md rules R33, R46; spec/60_exceptions.md rules
R521, R540 to R543). The block has no arithmetic condition codes (R46).
-/

namespace Sys2Proof.Machine

/-- The number of a completion code in `STATUS.ERR` (R521). -/
def ErrCode.code : ErrCode → Byte
  | .ok => 0
  | .cmd => 1
  | .keyLen => 2
  | .noKey => 3
  | .blkLen => 4
  | .ctLen => 5
  | .empty => 6
  | .capacity => 7
  | .chan => 8
  | .geom => 9
  | .range => 10
  | .overlap => 11
  | .bus => 12

/-- A flag as bit `k` of a word. -/
def flagBit (b : Bool) (k : Nat) : Word := (BitVec.ofBool b).setWidth 32 <<< k

/-- `STATUS` as it reads (R33): bit 0 `BUSY`, bit 1 `DONE`, bit 2 `KEY_VALID`, bits 15:8 `ERR`. -/
def statusWord (s : State) : Word :=
  flagBit s.busy 0 ||| flagBit s.done 1 ||| flagBit s.keyValid 2 ||| (s.err.setWidth 32 <<< 8)

/-- `IRQ_EN` as it reads (R540). -/
def irqEnWord (s : State) : Word := flagBit s.doneIe 0 ||| flagBit s.wbusyIe 1

/-- `IRQ_STATUS` as it reads (R541). -/
def irqStatusWord (s : State) : Word := flagBit s.doneIp 0 ||| flagBit s.wbusyIp 1

/-- The interrupt output (R542); it is 0 while reset is asserted (R581). -/
def irq (s : State) : Bool :=
  !s.inReset && ((s.doneIp && s.doneIe) || (s.wbusyIp && s.wbusyIe))

/-- A write of `IRQ_EN` (R540): it takes effect at once and leaves the pending bits. -/
def writeIrqEn (v : Word) (s : State) : State :=
  { s with doneIe := v.getLsbD 0, wbusyIe := v.getLsbD 1 }

/-- A write of `IRQ_STATUS` (R541): a one clears its bit, a zero leaves it; no bit is set. -/
def writeIrqStatus (v : Word) (s : State) : State :=
  { s with doneIp := s.doneIp && !v.getLsbD 0, wbusyIp := s.wbusyIp && !v.getLsbD 1 }

/-- A register write that is ignored because the block is busy (R34, R541). -/
def ignoredWrite (s : State) : State := { s with wbusyIp := true }

end Sys2Proof.Machine
end

