-- ==== Sys2Proof/Machine/Memory.lean ====
section
/-!
DEFINITION. The data space's named operations (spec/20_memory.md rules R100 to R105, R108): one byte
read, one byte written, and the byte lists of the pseudocode's `MemRead` and `MemWrite`
(spec/00_scope.md rule R8). Every byte is plain memory, without side effects: DESIGN CHOICE
(notes/assumptions/19.md).
-/

namespace Sys2Proof.Machine

/-- What a byte that nothing has written reads as. DESIGN CHOICE (notes/assumptions/5.md): the spec
gives the data space no initial contents (R583: reset does not touch it). -/
def Memory.unlisted : Byte := 0

/-- The byte at an address. -/
def Memory.read (m : Memory) (a : Nat) : Byte :=
  ((m.find? fun c => c.1 == a).map (·.2)).getD Memory.unlisted

/-- A cell put before the first listed cell of a higher address. -/
def Memory.insertCell (c : Host.Cell) : Memory → Memory
  | [] => [c]
  | d :: m => bif c.1 < d.1 then c :: d :: m else d :: Memory.insertCell c m

/-- One byte written. The old cell is dropped, and the new one is listed unless an unlisted address reads
the same, which keeps the canonical form. -/
def Memory.write (m : Memory) (a : Nat) (v : Byte) : Memory :=
  let kept := m.filter fun c => c.1 != a
  bif v == Memory.unlisted then kept else Memory.insertCell (a, v) kept

/-- `MemRead(addr, n)`: the `n` bytes from `addr` upward (R8). -/
def Memory.readBytes (m : Memory) (a n : Nat) : List Byte :=
  (List.range n).map fun i => m.read (a + i)

/-- `MemWrite(addr, n, v)`: element `i` goes to `addr + i` (R8, R105). -/
def Memory.writeBytes (m : Memory) (a : Nat) : List Byte → Memory
  | [] => m
  | v :: vs => Memory.writeBytes (m.write a v) (a + 1) vs

/-- The canonical form: addresses strictly rising, no listed byte equal to what an unlisted address
reads as. -/
abbrev Memory.wf (m : Memory) : Prop :=
  m.Pairwise (fun c d => c.1 < d.1) ∧ ∀ c ∈ m, c.2 ≠ Memory.unlisted

/-- Every listed byte exists (R100). -/
abbrev Memory.within (m : Memory) (size : Nat) : Prop := ∀ c ∈ m, c.1 < size

end Sys2Proof.Machine
end

