-- ==== Sys2Proof/Machine/Operands.lean ====
section
/-!
DEFINITION. Operand assembly (spec/30_encoding.md rule R154, spec/10_state.md rules R36 to R38): what a
command reads out of its registers, which are frozen from its accept to its completion (R34, R44).
-/

namespace Sys2Proof.Machine

/-- Byte `k mod 4` of a word: bits `8(k mod 4) + 7 : 8(k mod 4)` (R37, little-endian by byte index). -/
def byteOf (w : Word) (k : Nat) : Byte := w.extractLsb' (8 * (k % 4)) 8

/-- Four bytes packed little-endian into a word (R37, R41). -/
def packWord (b0 b1 b2 b3 : Byte) : Word := b3 ++ b2 ++ b1 ++ b0

/-- `OPA[7:0]`. -/
def opA8 (s : State) : Byte := s.opa.extractLsb' 0 8

/-- `OPB[7:0]`. -/
def opB8 (s : State) : Byte := s.opb.extractLsb' 0 8

/-- `OPA[15:0]`, the polynomial of GF_REDUCE. -/
def opA16 (s : State) : Half := s.opa.extractLsb' 0 16

/-- Key byte `k`, `0 <= k < 32`: byte `k mod 4` of `KEY(k div 4)` (R37). -/
def keyByte (s : State) (k : Nat) : Byte := byteOf (s.key.getD (k / 4) 0) k

/-- The key: bytes `0 .. KEY_LEN - 1` (R154). -/
def keyBytes (s : State) : List Byte := (List.range s.keyLen.toNat).map (keyByte s)

/-- IV byte `k`, `0 <= k < 16`: byte `k mod 4` of `IV(k div 4)` (R37). -/
def ivByte (s : State) (k : Nat) : Byte := byteOf (s.iv.getD (k / 4) 0) k

/-- The IV as a block of 16 bytes (R154). -/
def ivBlock (s : State) : Block := Vector.ofFn fun k => ivByte s k.val

/-- `LEN` (R38). -/
def lenOf (s : State) : Nat := s.len.toNat

/-- `W = IMG_W[15:0]`. -/
def imgWidth (s : State) : Nat := s.imgW.toNat

/-- `H = IMG_H[15:0]`. -/
def imgHeight (s : State) : Nat := s.imgH.toNat

/-- `C = IMG_C[7:0]`. -/
def imgChannels (s : State) : Nat := s.imgC.toNat

/-- The number of pixels `W*H`. -/
def imgPixels (s : State) : Nat := imgWidth s * imgHeight s

/-- The number of bytes of an image, `W*H*C` (R104). -/
def imgBytes (s : State) : Nat := imgPixels s * imgChannels s

/-- The most bytes EXTRACT can write, `min(MAX_EXTRACT, floor(W*H / 3))` (R106, R411). -/
def extractRoom (s : State) : Nat := min s.maxExtract.toNat (imgPixels s / 3)

/-- `clamp(v, lo, hi)` (R9). -/
def clampInt (v lo hi : Int) : Int := if v < lo then lo else if hi < v then hi else v

/-- The clamped bit position of a `BITPOS` value, read as a signed 32-bit integer (R401). -/
def clampBitPos (w : Word) : Nat := (clampInt w.toInt 0 7).toNat

/-- The bit position `p` that EMBED and EXTRACT use (R401). -/
def bitPos (s : State) : Nat := clampBitPos s.bitpos

/-- The pad length `L = 16 - (n mod 16)` (R350). -/
def padLen (n : Nat) : Nat := 16 - n % 16

end Sys2Proof.Machine
end

