-- ==== Sys2Proof/Machine/Ops.lean ====
section
/-!
DEFINITION. The operations that the commands share: buffers and their checks (spec/20_memory.md rules R103,
R106, R107), the life of a command (spec/30_encoding.md rules R160 to R163), the error completion that is
this block's whole exception mechanism (spec/60_exceptions.md rules R520 to R532), and the effects that
the spec leaves "any value" (R114, R115).
-/

namespace Sys2Proof.Machine

/-- A buffer of the data space: the `size` bytes from `start` (R103). -/
structure Buffer where
  start : Nat
  size : Nat
deriving DecidableEq, Repr

/-- `InRange` (R103), on unbounded integers. -/
def inRange (memSize : Nat) (b : Buffer) : Bool := b.size == 0 || b.start + b.size ≤ memSize

/-- `Overlap` (R103). -/
def overlap (b c : Buffer) : Bool :=
  0 < b.size && 0 < c.size && b.start < c.start + c.size && c.start < b.start + b.size

/-- An address is one of the buffer's. -/
def inBuffer (a : Nat) (b : Buffer) : Bool := b.start ≤ a && a < b.start + b.size

/-- An address belongs to one of the buffers. -/
def inBuffers (a : Nat) (bs : List Buffer) : Bool := bs.any (inBuffer a)

/-- The read buffers of a command (R106). -/
def readBuffers (i : Instr) (s : State) : List Buffer :=
  match i with
  | .encBlock | .decBlock => [⟨s.srcAddr.toNat, 16⟩]
  | .cbcEnc | .cbcDec => [⟨s.srcAddr.toNat, lenOf s⟩]
  | .embed => [⟨s.srcAddr.toNat, imgBytes s⟩, ⟨s.auxAddr.toNat, lenOf s⟩]
  | .extract | .noise => [⟨s.srcAddr.toNat, imgBytes s⟩]
  | .nop | .gfPmul | .gfReduce | .gfXtime | .gfMul | .gfInv | .gfAffine | .gfSbox | .sboxLookup
  | .invsboxLookup | .keyInit => []

/-- The write buffers of a command (R106). -/
def writeBuffers (i : Instr) (s : State) : List Buffer :=
  match i with
  | .encBlock | .decBlock => [⟨s.dstAddr.toNat, 16⟩]
  | .cbcEnc => [⟨s.dstAddr.toNat, lenOf s + padLen (lenOf s)⟩]
  | .cbcDec => [⟨s.dstAddr.toNat, lenOf s⟩]
  | .embed | .noise => [⟨s.dstAddr.toNat, imgBytes s⟩]
  | .extract => [⟨s.dstAddr.toNat, extractRoom s⟩]
  | .nop | .gfPmul | .gfReduce | .gfXtime | .gfMul | .gfInv | .gfAffine | .gfSbox | .sboxLookup
  | .invsboxLookup | .keyInit => []

/-- The commands that may run in place, with equal start addresses (R106, last column). -/
def inPlaceAllowed (i : Instr) : Bool :=
  match i with
  | .encBlock | .decBlock | .cbcEnc | .cbcDec => true
  | .embed | .extract | .noise => false
  | .nop | .gfPmul | .gfReduce | .gfXtime | .gfMul | .gfInv | .gfAffine | .gfSbox | .sboxLookup
  | .invsboxLookup | .keyInit => false

/-- Some buffer of the command is out of range (R103, R522: one check over all its buffers). -/
def rangeError (i : Instr) (s : State) : Bool :=
  !(readBuffers i s ++ writeBuffers i s).all (inRange s.build.memSize)

/-- Some read buffer overlaps some write buffer in a way R107 forbids. -/
def overlapError (i : Instr) (s : State) : Bool :=
  (readBuffers i s).any fun r => (writeBuffers i s).any fun w =>
    overlap r w && !(inPlaceAllowed i && r.start == w.start)

/-- The checks of rule R522 for a command, in order: each code with whether its check fails. They read
the registers, `KEY_VALID` and the build only, never memory. -/
def checks (i : Instr) (s : State) : List (ErrCode × Bool) :=
  match i with
  | .nop | .gfPmul | .gfReduce | .gfXtime | .gfMul | .gfInv | .gfAffine | .gfSbox => []
  | .sboxLookup | .invsboxLookup => [(.noKey, !s.keyValid)]
  | .keyInit => [(.keyLen, s.keyLen != 16 && s.keyLen != 24 && s.keyLen != 32)]
  | .encBlock | .decBlock =>
    [(.noKey, !s.keyValid), (.blkLen, lenOf s != 16), (.range, rangeError i s),
     (.overlap, overlapError i s)]
  | .cbcEnc => [(.noKey, !s.keyValid), (.range, rangeError i s), (.overlap, overlapError i s)]
  | .cbcDec =>
    [(.noKey, !s.keyValid), (.ctLen, lenOf s % 16 != 0), (.range, rangeError i s),
     (.overlap, overlapError i s)]
  | .embed =>
    [(.chan, imgChannels s < 3), (.geom, imgWidth s == 0 || imgHeight s == 0), (.empty, lenOf s == 0),
     (.capacity, imgPixels s < 3 * lenOf s), (.range, rangeError i s), (.overlap, overlapError i s)]
  | .extract | .noise =>
    [(.chan, imgChannels s < 3), (.geom, imgWidth s == 0 || imgHeight s == 0),
     (.range, rangeError i s), (.overlap, overlapError i s)]

/-- The first check of a command that fails, if one does (R161, R522). -/
def firstError (i : Instr) (s : State) : Option ErrCode := ((checks i s).find? (·.2)).map (·.1)

/-- Accept of a command word (R160): it is latched, `BUSY` is set, `DONE` and `ERR` are cleared, and
nothing has disturbed the command yet. -/
def accept (v : Word) (s : State) : State :=
  { s with ctrl := v, busy := true, done := false, err := 0, hazard := {} }

/-- Completion with a code (R163, R520): the one operation by which a command ends, in success or in
error. There is no handler, no saved state and no return (R531, R532). -/
def complete (e : ErrCode) (s : State) : State :=
  { s with busy := false, done := true, err := e.code, doneIp := true, hazard := {} }

/-- `n` bytes of any value, from the free value number `ix` on. -/
def freeBytes (ix n : Nat) : List Byte := (List.range n).map fun k => Config.freeByte (ix + k)

/-- Every byte of a buffer becomes any value (R114, R115, R582). -/
def scrambleBuffer (s : State) (b : Buffer) : State :=
  { s with mem := s.mem.writeBytes b.start (freeBytes s.freeIx b.size), freeIx := s.freeIx + b.size }

/-- Every byte of the buffers becomes any value. -/
def scrambleBuffers (bs : List Buffer) (s : State) : State := bs.foldl scrambleBuffer s

/-- `OUT_LEN` becomes any value (R114). -/
def freeOutLen (s : State) : State :=
  { s with outLen := Config.freeWord s.freeIx, freeIx := s.freeIx + 1 }

/-- `OUT_LEN <- n` (R39). A length that the 32-bit register cannot hold is a free value
(notes/assumptions/7.md: the spec states no result there). -/
def setOutLen (n : Nat) (s : State) : State :=
  if n < 2 ^ 32 then { s with outLen := BitVec.ofNat 32 n } else freeOutLen s

/-- What the writes of other agents during a command do to its results (R114): a write to a read buffer
leaves every byte of the write buffers and `OUT_LEN` any value; a write to a write-buffer byte leaves that
byte any value. `bs` are the command's write buffers and `h` is what has disturbed it. -/
def disturb (bs : List Buffer) (h : Hazard) (s : State) : State :=
  if h.readHit then freeOutLen (scrambleBuffers bs s)
  else scrambleBuffers ((h.writeHits.filter fun a => inBuffers a bs).map fun a => ⟨a, 1⟩) s

/-- A bus error response reaches the command: the platform gave one, and the command makes a DMA access
(R115). DEDUCED (notes/assumptions/13.md). -/
def busErrorReaches (i : Instr) (s : State) : Bool :=
  s.hazard.busError && (readBuffers i s ++ writeBuffers i s).any fun b => 0 < b.size

/-- The results of a memory command: the bytes written from `DST_ADDR` on, the result length, and how
many free values they consumed. -/
structure MemResult where
  bytes : List Byte
  outLen : Nat
  draws : Nat := 0
deriving DecidableEq, Repr

/-- The results of a memory command become visible (R108, R163). -/
def storeResult (r : MemResult) (s : State) : State :=
  setOutLen r.outLen
    { s with mem := s.mem.writeBytes s.dstAddr.toNat r.bytes, freeIx := s.freeIx + r.draws }

/-- The end of a memory command whose checks pass: success with its results, or `ERR_BUS` with every byte
of its write buffers any value (R115); then what other agents disturbed (R114). With both at once `OUT_LEN`
is open: DESIGN CHOICE (notes/assumptions/11.md). The source bytes are read here, at the completion: DEDUCED
(notes/assumptions/23.md). -/
def finishMemory (i : Instr) (r : State → MemResult) (s : State) : State :=
  disturb (writeBuffers i s) s.hazard
    (if busErrorReaches i s then complete .bus (scrambleBuffers (writeBuffers i s) s)
     else complete .ok (storeResult (r s) s))

/-- A memory command: the checks, then its results (R161 to R163). -/
def memoryCommand (i : Instr) (r : State → MemResult) (s : State) :
    Host.Outcome State Fault Refusal :=
  match firstError i s with
  | some e => .next (complete e s)
  | none => .next (finishMemory i r s)

/-- A command that ends with a value in `RES`, zero-extended (R36, R163). -/
def resultCommand (v : Word) (s : State) : Host.Outcome State Fault Refusal :=
  .next (complete .ok { s with res := v })

/-- The registers and flags return to their reset values, as the reset input is asserted (R580, R581);
the data space is not touched (R583) and neither are the build, the port's last answers and the inputs
still to come. -/
def resetRegisters (s : State) : State :=
  { State.reset with
    mem := s.mem
    inReset := true
    portData := s.portData
    portError := s.portError
    agentData := s.agentData
    freeIx := s.freeIx
    inbox := s.inbox
    build := s.build }

end Sys2Proof.Machine
end

