-- ==== Sys2Proof/Machine/BitPlaneCodec.lean ====
section
/-!
DEFINITION. The BitPlaneCodec commands (spec/43_bitplane_codec.md rules R406, R411).
-/

namespace Sys2Proof.Machine

/-- The source image: the `W*H*C` bytes at `SRC_ADDR` (R104). -/
def sourceImage (s : State) : List Byte := s.mem.readBytes s.srcAddr.toNat (imgBytes s)

/-- The payload: the `LEN` bytes at `AUX_ADDR` (R406). -/
def payload (s : State) : List Byte := s.mem.readBytes s.auxAddr.toNat (lenOf s)

/-- The embedded image of EMBED (R406). -/
def embedResult (s : State) : MemResult :=
  { bytes := embedImage (sourceImage s) (imgChannels s) (payload s) (bitPos s), outLen := imgBytes s }

/-- EMBED (R406). -/
def execEmbed (s : State) : Host.Outcome State Fault Refusal := memoryCommand .embed embedResult s

/-- The characters that EXTRACT recovers (R411). -/
def extracted (s : State) : List Byte :=
  extractImage s.build (sourceImage s) (imgPixels s) (imgChannels s) (bitPos s) s.maxExtract.toNat

/-- EXTRACT (R411): only the recovered characters are written. -/
def execExtract (s : State) : Host.Outcome State Fault Refusal :=
  memoryCommand .extract (fun s => { bytes := extracted s, outLen := (extracted s).length }) s

end Sys2Proof.Machine
end

