-- ==== Sys2Proof/Machine/Cipher.lean ====
section
/-!
DEFINITION. The block cipher's pure functions (spec/41_block_cipher.md rules R250 to R285): the tables,
the key schedule, the round functions, and the encryption and decryption of one block.
-/

namespace Sys2Proof.Machine

/-- One word of the key schedule: 4 bytes, byte 0 its first byte (R254). -/
abbrev KeyWord := Vector Byte 4

/-- The table entry at a byte. -/
def lookup (t : Vector Byte 256) (x : Byte) : Byte := t[x.toNat]'x.isLt

/-- The S-box (R251). -/
def sboxTable (bld : Build) : Vector Byte 256 :=
  Vector.ofFn fun x => sboxEntry bld (BitVec.ofNat 8 x.val)

/-- The positional inverse of a table: the entries `IS[S[x]] <- x` written for `x` = 0, 1, .., 255 in
that order (R252). -/
def positionalInverse (sbox : Vector Byte 256) : Vector Byte 256 :=
  (List.range 256).foldl
    (fun t x => t.setIfInBounds (lookup sbox (BitVec.ofNat 8 x)).toNat (BitVec.ofNat 8 x))
    (Vector.replicate 256 0)

/-- Round constant `n` (R253). -/
def roundConstant : Nat → Byte
  | 0 => 0
  | 1 => 1
  | n + 2 => xtime (roundConstant (n + 1))

/-- The 256 round constants (R253). -/
def rconTable : Vector Byte 256 := Vector.ofFn fun n => roundConstant n.val

/-- A key word substituted byte by byte (R255). -/
def subWord (sbox : Vector Byte 256) (t : KeyWord) : KeyWord := t.map (lookup sbox)

/-- A key word rotated left by one byte (R255 RotWord). -/
def rotWord (t : KeyWord) : KeyWord := #v[t[1], t[2], t[3], t[0]]

/-- Exclusive-or of two key words. -/
def xorWord (a b : KeyWord) : KeyWord := Vector.zipWith (· ^^^ ·) a b

/-- Word `i` of the key of the list `key` (R254). -/
def keyWord (key : List Byte) (i : Nat) : KeyWord := Vector.ofFn fun b => key.getD (4 * i + b.val) 0

/-- The transformed copy of the preceding word, for word `i` of a schedule with `nk` key words, `rc`
being the index of the next round constant (R255). -/
def scheduleTemp (sbox rcon : Vector Byte 256) (nk i rc : Nat) (prev : KeyWord) : KeyWord :=
  if i % nk = 0 then
    xorWord (subWord sbox (rotWord prev)) #v[rcon.getD rc 0, 0, 0, 0]
  else if nk = 8 ∧ i % nk = 4 then subWord sbox prev
  else prev

/-- The schedule's loop: `n` more words, the next one being word `i` (R255). -/
def scheduleFrom (sbox rcon : Vector Byte 256) (nk : Nat) :
    (n i rc : Nat) → (w : List KeyWord) → List KeyWord
  | 0, _, _, w => w
  | n + 1, i, rc, w =>
    let t := scheduleTemp sbox rcon nk i rc (w.getD (i - 1) (Vector.replicate 4 0))
    scheduleFrom sbox rcon nk n (i + 1) (if i % nk = 0 then rc + 1 else rc)
      (w ++ [xorWord (w.getD (i - nk) (Vector.replicate 4 0)) t])

/-- The key schedule: `4 * (ROUNDS + 1)` words; the first rotation uses round constant 1 (R255, decision
D19). -/
def schedule (sbox rcon : Vector Byte 256) (key : List Byte) : List KeyWord :=
  let nk := key.length / 4
  scheduleFrom sbox rcon nk (4 * (rounds + 1) - nk) nk 1 ((List.range nk).map (keyWord key))

/-- The words grouped four by four into round keys (R256). -/
def groupRoundKeys (w : List KeyWord) : Vector Block 17 :=
  Vector.ofFn fun r => Vector.ofFn fun k =>
    (w.getD (4 * r.val + k.val / 4) (Vector.replicate 4 0)).getD (k.val % 4) 0

/-- The cipher instance that a successful KEY_INIT with this key installs (R250, R260). -/
def construct (bld : Build) (key : List Byte) : Cipher :=
  let s := sboxTable bld
  { sbox := s
    invSbox := positionalInverse s
    rcon := rconTable
    rk := groupRoundKeys (schedule s rconTable key) }

/-- Row `i`, column `j` of a state (R275). -/
def Block.at (s : Block) (i j : Fin 4) : Byte := s[4 * i.val + j.val]

/-- The state whose row `i`, column `j` is `f i j` (R275). -/
def Block.grid (f : Fin 4 → Fin 4 → Byte) : Block :=
  Vector.ofFn fun k => f ⟨k.val / 4, by omega⟩ ⟨k.val % 4, by omega⟩

/-- The state made of a list of 16 bytes (R275). -/
def Block.load (bs : List Byte) : Block := Vector.ofFn fun k => bs.getD k.val 0

/-- The 16 bytes of a state, in the order that built it (R275). -/
def Block.store (s : Block) : List Byte := s.toList

/-- Bytewise exclusive-or of two blocks (R351). -/
def Block.xor (a b : Block) : Block := Vector.zipWith (· ^^^ ·) a b

/-- AddRoundKey (R276). -/
def addRoundKey (c : Cipher) (r : Nat) (s : Block) : Block :=
  Block.xor s (c.rk.getD r (Vector.replicate 16 0))

/-- SubBytes (R277). -/
def subBytes (c : Cipher) (s : Block) : Block := s.map (lookup c.sbox)

/-- InvSubBytes (R277). -/
def invSubBytes (c : Cipher) (s : Block) : Block := s.map (lookup c.invSbox)

/-- ShiftRows, along the axis of the build (R278). `Fin 4` adds modulo 4. -/
def shiftRows (o : Orient) (s : Block) : Block :=
  match o with
  | .rows => Block.grid fun i j => s.at i (j + i)
  | .columns => Block.grid fun i j => s.at (i + j) j

/-- InvShiftRows (R279). `Fin 4` subtracts modulo 4. -/
def invShiftRows (o : Orient) (s : Block) : Block :=
  match o with
  | .rows => Block.grid fun i j => s.at i (j - i)
  | .columns => Block.grid fun i j => s.at (i - j) j

/-- Element `k` of `mixvec(a)` (R280; the adjacent pair is PRESUMED by the spec, notes/assumptions/21.md). -/
def mixVec (a : Fin 4 → Byte) (k : Fin 4) : Byte :=
  a k ^^^ (a 0 ^^^ a 1 ^^^ a 2 ^^^ a 3) ^^^ xtime (a k ^^^ a (k + 1))

/-- Element `k` of `invmixvec(a)` (R282). -/
def invMixVec (a : Fin 4 → Byte) (k : Fin 4) : Byte :=
  fmul 0x0E (a k) ^^^ fmul 0x0B (a (k + 1)) ^^^ fmul 0x0D (a (k + 2)) ^^^ fmul 0x09 (a (k + 3))

/-- A vector function applied to each vector of the state: with `ROWS` to the four columns, with
`COLUMNS` to the four rows (R281). -/
def mapVectors (o : Orient) (f : (Fin 4 → Byte) → Fin 4 → Byte) (s : Block) : Block :=
  match o with
  | .rows => Block.grid fun i j => f (fun r => s.at r j) i
  | .columns => Block.grid fun i j => f (fun c => s.at i c) j

/-- MixColumns (R281). -/
def mixColumns (o : Orient) (s : Block) : Block := mapVectors o mixVec s

/-- InvMixColumns (R283). -/
def invMixColumns (o : Orient) (s : Block) : Block := mapVectors o invMixVec s

/-- One full encryption round (R284). -/
def encRound (c : Cipher) (o : Orient) (s : Block) (r : Nat) : Block :=
  addRoundKey c r (mixColumns o (shiftRows o (subBytes c s)))

/-- Encryption of one block: the function `E` (R284). -/
def encrypt (c : Cipher) (o : Orient) (s : Block) : Block :=
  let mid := (List.range' 1 (rounds - 1)).foldl (encRound c o) (addRoundKey c 0 s)
  addRoundKey c rounds (shiftRows o (subBytes c mid))

/-- One of the remaining decryption rounds (R285). -/
def decRound (c : Cipher) (o : Orient) (s : Block) (r : Nat) : Block :=
  invSubBytes c (invShiftRows o (invMixColumns o (addRoundKey c r s)))

/-- Decryption of one block: the function `D` (R285). -/
def decrypt (c : Cipher) (o : Orient) (s : Block) : Block :=
  let top := invSubBytes c (invShiftRows o (addRoundKey c rounds s))
  addRoundKey c 0 ((List.range' 1 (rounds - 1)).reverse.foldl (decRound c o) top)

end Sys2Proof.Machine
end

