-- ==== Sys2Proof/Machine/BlockCipher.lean ====
section
/-!
DEFINITION. The BlockCipher commands (spec/41_block_cipher.md rules R260, R270, R271, R290, R291).
-/

namespace Sys2Proof.Machine

/-- A table lookup: `ERR_NOKEY` without a cipher instance, else the entry at `OPA[7:0]` in `RES`
(R270, R271). -/
def lookupCommand (i : Instr) (t : Vector Byte 256) (s : State) : Host.Outcome State Fault Refusal :=
  match firstError i s with
  | some e => .next (complete e s)
  | none => resultCommand ((lookup t (opA8 s)).setWidth 32) s

/-- SBOX_LOOKUP (R270). -/
def execSboxLookup (s : State) : Host.Outcome State Fault Refusal :=
  lookupCommand .sboxLookup s.cipher.sbox s

/-- INVSBOX_LOOKUP (R271). -/
def execInvsboxLookup (s : State) : Host.Outcome State Fault Refusal :=
  lookupCommand .invsboxLookup s.cipher.invSbox s

/-- KEY_INIT (R260): the whole cipher instance is replaced, or, with a key length that is not
supported, nothing is. -/
def execKeyInit (s : State) : Host.Outcome State Fault Refusal :=
  match firstError .keyInit s with
  | some e => .next (complete e s)
  | none =>
    .next (complete .ok { s with cipher := construct s.build (keyBytes s), keyValid := true })

/-- The 16 bytes at `SRC_ADDR` as a block (R290, R291). -/
def sourceBlock (s : State) : Block := Block.load (s.mem.readBytes s.srcAddr.toNat 16)

/-- ENC_BLOCK (R290). -/
def execEncBlock (s : State) : Host.Outcome State Fault Refusal :=
  memoryCommand .encBlock
    (fun s => { bytes := (encrypt s.cipher s.build.orient (sourceBlock s)).store, outLen := 16 }) s

/-- DEC_BLOCK (R291). -/
def execDecBlock (s : State) : Host.Outcome State Fault Refusal :=
  memoryCommand .decBlock
    (fun s => { bytes := (decrypt s.cipher s.build.orient (sourceBlock s)).store, outLen := 16 }) s

end Sys2Proof.Machine
end

