-- ==== Sys2Proof/Machine/Chain.lean ====
section
/-!
DEFINITION. Padding, chaining and unpadding (spec/42_chain_mode.md rules R350 to R353): pure functions.
-/

namespace Sys2Proof.Machine

/-- `pad(P)`: the pad length, as many times as it says (R350). -/
def pad (p : List Byte) : List Byte :=
  p ++ List.replicate (padLen p.length) (BitVec.ofNat 8 (padLen p.length))

/-- The next `n` blocks of CBC encryption, `prev` being the ciphertext block before them (R351). -/
def cbcEncBlocks (c : Cipher) (o : Orient) : (n : Nat) → (prev : Block) → List Byte → List Byte
  | 0, _, _ => []
  | n + 1, prev, q =>
    let b := encrypt c o (Block.xor (Block.load (q.take 16)) prev)
    b.store ++ cbcEncBlocks c o n b (q.drop 16)

/-- CBC encryption of a plaintext (R351). -/
def cbcEncrypt (c : Cipher) (o : Orient) (iv : Block) (p : List Byte) : List Byte :=
  cbcEncBlocks c o ((pad p).length / 16) iv (pad p)

/-- The next `n` blocks of CBC decryption (R352). -/
def cbcDecBlocks (c : Cipher) (o : Orient) : (n : Nat) → (prev : Block) → List Byte → List Byte
  | 0, _, _ => []
  | n + 1, prev, q =>
    let b := Block.load (q.take 16)
    (Block.xor (decrypt c o b) prev).store ++ cbcDecBlocks c o n b (q.drop 16)

/-- CBC decryption of a ciphertext, still padded (R352). -/
def cbcDecrypt (c : Cipher) (o : Orient) (iv : Block) (x : List Byte) : List Byte :=
  cbcDecBlocks c o (x.length / 16) iv x

/-- The last byte of a decrypted text is a possible pad length: from 1 to the text's length (R353). -/
def padByteValid (out : List Byte) : Bool :=
  1 ≤ (out.getLastD 0).toNat && (out.getLastD 0).toNat ≤ out.length

/-- The unpadded length of a decrypted text, `free` standing for the value that `UNPAD_POLICY = DRAW`
leaves open, in `[0, m]` (R353). -/
def unpadLen (pol : UnpadPolicy) (free : Nat) (out : List Byte) : Nat :=
  if out.length = 0 then 0
  else if padByteValid out then out.length - (out.getLastD 0).toNat
  else
    match pol with
    | .zero => 0
    | .draw => free % (out.length + 1)

end Sys2Proof.Machine
end

