-- ==== Sys2Proof/Machine/ChainMode.lean ====
section
/-!
DEFINITION. The ChainMode commands (spec/42_chain_mode.md rules R354, R355).
-/

namespace Sys2Proof.Machine

/-- The `LEN` bytes at `SRC_ADDR`: the plaintext or the ciphertext (R354, R355). -/
def sourceText (s : State) : List Byte := s.mem.readBytes s.srcAddr.toNat (lenOf s)

/-- The ciphertext of CBC_ENC and its length (R354). -/
def cbcEncResult (s : State) : MemResult :=
  { bytes := cbcEncrypt s.cipher s.build.orient (ivBlock s) (sourceText s)
    outLen := lenOf s + padLen (lenOf s) }

/-- CBC_ENC (R354). -/
def execCbcEnc (s : State) : Host.Outcome State Fault Refusal := memoryCommand .cbcEnc cbcEncResult s

/-- The padded plaintext of CBC_DEC and its unpadded length (R355): all `m` bytes are written, and the
length is what R353 says. The value that `UNPAD_POLICY = DRAW` leaves open is a free value, consumed whether it is needed or not (DESIGN CHOICE, notes/assumptions/22.md). -/
def cbcDecResult (s : State) : MemResult :=
  let out := cbcDecrypt s.cipher s.build.orient (ivBlock s) (sourceText s)
  { bytes := out
    outLen := unpadLen s.build.unpadPolicy (Config.freeNat s.freeIx) out
    draws := 1 }

/-- CBC_DEC (R355). -/
def execCbcDec (s : State) : Host.Outcome State Fault Refusal := memoryCommand .cbcDec cbcDecResult s

end Sys2Proof.Machine
end

