-- ==== Sys2Proof/Machine/Control.lean ====
section
/-!
DEFINITION. The control command NOP (spec/45_control.md rule R500) and the completion of an illegal
command word (spec/30_encoding.md rule R153).
-/

namespace Sys2Proof.Machine

/-- NOP: the completion and nothing else (R500). -/
def execNop (s : State) : Host.Outcome State Fault Refusal := .next (complete .ok s)

/-- A `CTRL` value that is no command word completes with `ERR_CMD` and changes nothing else (R153). -/
def illegalCommand (s : State) : State := complete .cmd s

end Sys2Proof.Machine
end

