-- ==== Sys2Proof/Machine/GaloisField.lean ====
section
/-!
DEFINITION. The GaloisField commands (spec/40_galois_field.md rules R210 to R216). They access no memory,
read no table, need no key and cannot fail; each writes `RES` and the completion.
-/

namespace Sys2Proof.Machine

/-- GF_PMUL (R210). -/
def execGfPmul (s : State) : Host.Outcome State Fault Refusal :=
  resultCommand ((clmul (opA8 s) (opB8 s)).setWidth 32) s

/-- GF_REDUCE (R211). -/
def execGfReduce (s : State) : Host.Outcome State Fault Refusal :=
  resultCommand ((reduce (opA16 s)).setWidth 32) s

/-- GF_XTIME (R212). -/
def execGfXtime (s : State) : Host.Outcome State Fault Refusal :=
  resultCommand ((xtime (opA8 s)).setWidth 32) s

/-- GF_MUL (R213). -/
def execGfMul (s : State) : Host.Outcome State Fault Refusal :=
  resultCommand ((fmul (opA8 s) (opB8 s)).setWidth 32) s

/-- GF_INV (R214). -/
def execGfInv (s : State) : Host.Outcome State Fault Refusal :=
  resultCommand ((inv (opA8 s)).setWidth 32) s

/-- GF_AFFINE (R215). -/
def execGfAffine (s : State) : Host.Outcome State Fault Refusal :=
  resultCommand ((affine s.build (opA8 s)).setWidth 32) s

/-- GF_SBOX (R216). -/
def execGfSbox (s : State) : Host.Outcome State Fault Refusal :=
  resultCommand ((sboxEntry s.build (opA8 s)).setWidth 32) s

end Sys2Proof.Machine
end

