-- ==== Sys2Proof/Machine/Noise.lean ====
section
/-!
DEFINITION. The noise injector's pure functions (spec/44_noise_injector.md rules R450 to R456).
-/

namespace Sys2Proof.Machine

/-- `Rng(seed, k, n)`: the build's entropy function, an integer in `[0, n)` (R452). A build that lists
its first answers takes them from its list; the rest of the function is open. DESIGN CHOICE
(notes/assumptions/16.md). -/
def rng (bld : Build) (seed : Word) (k n : Nat) : Nat :=
  (match bld.draws[k]? with
    | some d => d
    | none => Config.rng seed k n) % n

/-- A channel value plus a delta, clamped to `[0, 255]` (R454). -/
def addClamped (v : Byte) (d : Int) : Byte :=
  BitVec.ofNat 8 (clampInt ((v.toNat : Int) + d) 0 255).toNat

/-- The same delta added to channels 0, 1 and 2 of the pixel with scan index `i` (R453, R454). -/
def perturbPixel (c i : Nat) (d : Int) (out : List Byte) : List Byte :=
  [0, 1, 2].foldl (fun o ch => o.modify (i * c + ch) fun v => addClamped v d) out

/-- One attempt (R453): the column is drawn, then the row, and only for an unprotected pixel the delta.
The state is the next draw index and the working image. -/
def noiseAttempt (draw : Nat → Nat → Nat) (w h c a t : Nat) (st : Nat × List Byte) : Nat × List Byte :=
  let i := draw (st.1 + 1) h * w + draw st.1 w
  if i < t then (st.1 + 2, st.2)
  else (st.1 + 3, perturbPixel c i ((draw (st.1 + 2) (2 * a + 1) : Int) - (a : Int)) st.2)

/-- `n` attempts in order, on the working image (R453, R456). -/
def noiseAttempts (draw : Nat → Nat → Nat) (w h c a t : Nat) :
    (n : Nat) → Nat × List Byte → Nat × List Byte
  | 0, st => st
  | n + 1, st => noiseAttempts draw w h c a t n (noiseAttempt draw w h c a t st)

/-- The perturbed image (R453): `n` attempts, delta bound `a`, protected pixels below `t`; `draw k m` is
the `k`-th draw, from `[0, m)`. -/
def noiseImage (draw : Nat → Nat → Nat) (img : List Byte) (w h c n a t : Nat) : List Byte :=
  (noiseAttempts draw w h c a t n (0, img)).2

end Sys2Proof.Machine
end

