-- ==== Sys2Proof/Machine/NoiseInjector.lean ====
section
/-!
DEFINITION. The NoiseInjector command (spec/44_noise_injector.md rule R455).
-/

namespace Sys2Proof.Machine

/-- The number of attempts, `N = NOISE_MILLI` (R450). -/
def noiseAttemptCount (s : State) : Nat := s.noiseMilli.toNat

/-- The delta bound, `A = NOISE_MILLI div 1000` (R450). -/
def noiseBound (s : State) : Nat := s.noiseMilli.toNat / 1000

/-- The size of the protected region in pixels, `T = LEN * 24`, without wrap (R451). -/
def protectedPixels (s : State) : Nat := lenOf s * 24

/-- The perturbed image of NOISE: draw `k` of this command is `Rng(RNG_SEED, k, n)` (R452, R455). -/
def noiseResult (s : State) : MemResult :=
  { bytes :=
      noiseImage (rng s.build s.rngSeed) (s.mem.readBytes s.srcAddr.toNat (imgBytes s)) (imgWidth s)
        (imgHeight s) (imgChannels s) (noiseAttemptCount s) (noiseBound s) (protectedPixels s)
    outLen := imgBytes s }

/-- NOISE (R455). -/
def execNoise (s : State) : Host.Outcome State Fault Refusal := memoryCommand .noise noiseResult s

end Sys2Proof.Machine
end

