-- ==== Sys2Proof/Machine/Dispatch.lean ====
section
/-!
DEFINITION. The meaning of each command of spec/30_encoding.md rule R152: what the accepted command does
from its checks to its completion (rules R161 to R163), one arm per constructor.
-/

namespace Sys2Proof.Machine

def exec (i : Instr) (s : State) : Host.Outcome State Fault Refusal :=
  match i with
  | .nop => Sys2Proof.Machine.execNop s
  | .gfPmul => Sys2Proof.Machine.execGfPmul s
  | .gfReduce => Sys2Proof.Machine.execGfReduce s
  | .gfXtime => Sys2Proof.Machine.execGfXtime s
  | .gfMul => Sys2Proof.Machine.execGfMul s
  | .gfInv => Sys2Proof.Machine.execGfInv s
  | .gfAffine => Sys2Proof.Machine.execGfAffine s
  | .gfSbox => Sys2Proof.Machine.execGfSbox s
  | .sboxLookup => Sys2Proof.Machine.execSboxLookup s
  | .invsboxLookup => Sys2Proof.Machine.execInvsboxLookup s
  | .keyInit => Sys2Proof.Machine.execKeyInit s
  | .encBlock => Sys2Proof.Machine.execEncBlock s
  | .decBlock => Sys2Proof.Machine.execDecBlock s
  | .cbcEnc => Sys2Proof.Machine.execCbcEnc s
  | .cbcDec => Sys2Proof.Machine.execCbcDec s
  | .embed => Sys2Proof.Machine.execEmbed s
  | .extract => Sys2Proof.Machine.execExtract s
  | .noise => Sys2Proof.Machine.execNoise s

end Sys2Proof.Machine
end

