-- ==== Sys2Proof/Machine/Port.lean ====
section
/-!
DEFINITION. The register port (spec/10_state.md rules R32 to R42; spec/20_memory.md rules R100, R110): the
register map, its window in the host's map, reads, writes, and the answer to each access.
-/

namespace Sys2Proof.Machine

/-- The registers of rule R32. -/
inductive Reg where
  | id
  | version
  | ctrl
  | status
  | irqEn
  | irqStatus
  | opa
  | opb
  | res
  | keyLen
  | key (k : Fin 8)
  | iv (k : Fin 4)
  | srcAddr
  | dstAddr
  | len
  | auxAddr
  | outLen
  | imgW
  | imgH
  | imgC
  | bitpos
  | noiseMilli
  | rngSeed
  | maxExtract
  | sboxWin (k : Fin 64)
  | invsboxWin (k : Fin 64)
  | rconWin (k : Fin 64)
  | rkWin (k : Fin 68)
deriving DecidableEq, Repr

/-- The byte offset of a register (R32). -/
def offsetOf (r : Reg) : Nat :=
  match r with
  | .id => 0x000
  | .version => 0x004
  | .ctrl => 0x008
  | .status => 0x00C
  | .irqEn => 0x010
  | .irqStatus => 0x014
  | .opa => 0x020
  | .opb => 0x024
  | .res => 0x028
  | .keyLen => 0x030
  | .key k => 0x040 + 4 * k.val
  | .iv k => 0x060 + 4 * k.val
  | .srcAddr => 0x080
  | .dstAddr => 0x084
  | .len => 0x088
  | .auxAddr => 0x08C
  | .outLen => 0x090
  | .imgW => 0x0A0
  | .imgH => 0x0A4
  | .imgC => 0x0A8
  | .bitpos => 0x0AC
  | .noiseMilli => 0x0B0
  | .rngSeed => 0x0B4
  | .maxExtract => 0x0B8
  | .sboxWin k => 0x100 + 4 * k.val
  | .invsboxWin k => 0x200 + 4 * k.val
  | .rconWin k => 0x300 + 4 * k.val
  | .rkWin k => 0x400 + 4 * k.val

/-- The registers outside the arrays, by word number (offset divided by 4). -/
def scalarAt (n : Nat) : Option Reg :=
  match n with
  | 0x00 => some .id
  | 0x01 => some .version
  | 0x02 => some .ctrl
  | 0x03 => some .status
  | 0x04 => some .irqEn
  | 0x05 => some .irqStatus
  | 0x08 => some .opa
  | 0x09 => some .opb
  | 0x0A => some .res
  | 0x0C => some .keyLen
  | 0x20 => some .srcAddr
  | 0x21 => some .dstAddr
  | 0x22 => some .len
  | 0x23 => some .auxAddr
  | 0x24 => some .outLen
  | 0x28 => some .imgW
  | 0x29 => some .imgH
  | 0x2A => some .imgC
  | 0x2B => some .bitpos
  | 0x2C => some .noiseMilli
  | 0x2D => some .rngSeed
  | 0x2E => some .maxExtract
  | _ => none

/-- The register at a word number; none where the offset is unmapped (R32). -/
def regAtWord (n : Nat) : Option Reg :=
  if h : 0x10 ≤ n ∧ n < 0x18 then some (.key ⟨n - 0x10, by omega⟩)
  else if h : 0x18 ≤ n ∧ n < 0x1C then some (.iv ⟨n - 0x18, by omega⟩)
  else if h : 0x40 ≤ n ∧ n < 0x80 then some (.sboxWin ⟨n - 0x40, by omega⟩)
  else if h : 0x80 ≤ n ∧ n < 0xC0 then some (.invsboxWin ⟨n - 0x80, by omega⟩)
  else if h : 0xC0 ≤ n ∧ n < 0x100 then some (.rconWin ⟨n - 0xC0, by omega⟩)
  else if h : 0x100 ≤ n ∧ n < 0x144 then some (.rkWin ⟨n - 0x100, by omega⟩)
  else scalarAt n

/-- The register at an aligned byte offset (R32, R110). -/
def regAt (o : BitVec 12) : Option Reg := if o.toNat % 4 = 0 then regAtWord (o.toNat / 4) else none

/-- `ID` (R32, decision D1); a constant, not state: DEDUCED (notes/assumptions/20.md). -/
def idWord : Word := 0x53544730

/-- `VERSION` (R32, decision D1). -/
def versionWord : Word := 0x00070001

/-- Word `k` of a table window: four table bytes packed little-endian, or 0 while there is no cipher
instance or a command is in progress (R41). -/
def windowWord (s : State) (byteAt : Nat → Byte) (k : Nat) : Word :=
  if s.keyValid ∧ ¬s.busy then
    packWord (byteAt (4 * k)) (byteAt (4 * k + 1)) (byteAt (4 * k + 2)) (byteAt (4 * k + 3))
  else 0

/-- Byte `n` of the round-key byte stream: `RKB[16r + 4i + j] = RK[r][i][j]` (R42). -/
def roundKeyByte (c : Cipher) (n : Nat) : Byte :=
  (c.rk.getD (n / 16) (Vector.replicate 16 0)).getD (n % 16) 0

/-- The value a register reads (R35): its used bits, zeros above them. -/
def readReg (s : State) (r : Reg) : Word :=
  match r with
  | .id => idWord
  | .version => versionWord
  | .ctrl => s.ctrl
  | .status => statusWord s
  | .irqEn => irqEnWord s
  | .irqStatus => irqStatusWord s
  | .opa => s.opa
  | .opb => s.opb
  | .res => s.res
  | .keyLen => s.keyLen.setWidth 32
  | .key k => s.key[k]
  | .iv k => s.iv[k]
  | .srcAddr => s.srcAddr
  | .dstAddr => s.dstAddr
  | .len => s.len
  | .auxAddr => s.auxAddr
  | .outLen => s.outLen
  | .imgW => s.imgW.setWidth 32
  | .imgH => s.imgH.setWidth 32
  | .imgC => s.imgC.setWidth 32
  | .bitpos => s.bitpos
  | .noiseMilli => s.noiseMilli
  | .rngSeed => s.rngSeed
  | .maxExtract => s.maxExtract
  | .sboxWin k => windowWord s (fun n => s.cipher.sbox.getD n 0) k.val
  | .invsboxWin k => windowWord s (fun n => s.cipher.invSbox.getD n 0) k.val
  | .rconWin k => windowWord s (fun n => s.cipher.rcon.getD n 0) k.val
  | .rkWin k => windowWord s (roundKeyByte s.cipher) k.val

/-- A register that a command freezes is stored, or the write is ignored because the block is busy
(R34 a, b). -/
def writeFrozen (s t : State) : State := if s.busy then ignoredWrite s else t

/-- The effect of a register write (R34). `t` in the frozen registers' lines is the state with the
written bits of the width used. -/
def writeReg (r : Reg) (v : Word) (s : State) : State :=
  match r with
  | .ctrl => writeFrozen s (accept v s)
  | .irqEn => writeIrqEn v s
  | .irqStatus => writeIrqStatus v s
  | .opa => writeFrozen s { s with opa := v }
  | .opb => writeFrozen s { s with opb := v }
  | .keyLen => writeFrozen s { s with keyLen := v.setWidth 8 }
  | .key k => writeFrozen s { s with key := s.key.set k v }
  | .iv k => writeFrozen s { s with iv := s.iv.set k v }
  | .srcAddr => writeFrozen s { s with srcAddr := v }
  | .dstAddr => writeFrozen s { s with dstAddr := v }
  | .len => writeFrozen s { s with len := v }
  | .auxAddr => writeFrozen s { s with auxAddr := v }
  | .imgW => writeFrozen s { s with imgW := v.setWidth 16 }
  | .imgH => writeFrozen s { s with imgH := v.setWidth 16 }
  | .imgC => writeFrozen s { s with imgC := v.setWidth 8 }
  | .bitpos => writeFrozen s { s with bitpos := v }
  | .noiseMilli => writeFrozen s { s with noiseMilli := v }
  | .rngSeed => writeFrozen s { s with rngSeed := v }
  | .maxExtract => writeFrozen s { s with maxExtract := v }
  | .id | .version | .status | .res | .outLen | .sboxWin _ | .invsboxWin _ | .rconWin _ | .rkWin _ => s

/-- The port's answer to the last access. -/
def answer (data : Word) (error : Bool) (s : State) : State :=
  { s with portData := data, portError := error }

/-- An access that the port takes: an aligned 32-bit word (R110). -/
def wellFormedAccess (t : PortAccess) : Bool := t.width == .word && t.offset.toNat % 4 == 0

/-- A register-port access. A malformed one receives a bus error response, reads 0 and changes nothing
(R110); while reset is asserted reads return 0 and writes are ignored (R581); an unmapped offset reads 0
and ignores writes (R32). The order of the first two is DEDUCED (notes/assumptions/14.md). -/
def portAccess (t : PortAccess) (s : State) : State :=
  if !wellFormedAccess t then answer 0 true s
  else if s.inReset then answer 0 false s
  else
    match regAt t.offset with
    | none => answer 0 false s
    | some r =>
      if t.write then answer 0 false (writeReg r t.data s) else answer (readReg s r) false s

/-- The port access that a host access becomes: the byte offset from `REG_BASE` where the address lies in
the 4 KiB window, and none elsewhere (R100). -/
def windowAccess (bld : Build) (h : HostAccess) : Option PortAccess :=
  if bld.regBase ≤ h.addr ∧ h.addr < bld.regBase + 0x1000 then
    some ⟨h.write, BitVec.ofNat 12 (h.addr - bld.regBase), h.width, h.data⟩
  else none

/-- A register access by host address. One outside the window does not reach the block: DEDUCED
(notes/assumptions/25.md). -/
def hostAccess (h : HostAccess) (s : State) : State :=
  match windowAccess s.build h with
  | some t => portAccess t s
  | none => s

end Sys2Proof.Machine
end

