-- ==== Sys2Proof/Machine/Engine.lean ====
section
/-!
DEFINITION. The engine and the inputs (spec/30_encoding.md rules R160 to R164; spec/20_memory.md rules R113
to R115; spec/70_reset_and_hazards.md rules R581, R582): how the command in progress completes, and what
each input does.
-/

namespace Sys2Proof.Machine

/-- The command in progress, if its word is one and its checks pass: the only one that touches memory
(R103, R107, R161). DEDUCED (notes/assumptions/10.md). -/
def activeCommand (s : State) : Option Instr :=
  if s.busy then
    match decode s.ctrl with
    | .ok i => if firstError i s = none then some i else none
    | .error _ => none
  else none

/-- The read buffers that the command in progress owns (R114). -/
def ownedReads (s : State) : List Buffer :=
  match activeCommand s with
  | some i => readBuffers i s
  | none => []

/-- The write buffers that the command in progress owns (R114). -/
def ownedWrites (s : State) : List Buffer :=
  match activeCommand s with
  | some i => writeBuffers i s
  | none => []

/-- The command in progress runs to its completion: the word in `CTRL` is decoded and its meaning taken,
or it is illegal (R153, R161 to R163). -/
def runCommand (s : State) : Host.Outcome State Fault Refusal :=
  match decode s.ctrl with
  | .ok i => exec i s
  | .error _ => .next (illegalCommand s)

/-- The engine's turn, in one step with no transient state left (DEDUCED, notes/assumptions/15.md): a command in
progress completes; an idle block, or one held in reset, does
nothing (R565, R581). -/
def engineTurn (s : State) : Host.Outcome State Fault Refusal :=
  if s.busy ∧ ¬s.inReset then runCommand s else .next s

/-- The platform gives a bus error response to the command in progress (R115); there is nobody to give
it to otherwise. -/
def noteBusError (s : State) : State :=
  if s.busy then { s with hazard := { s.hazard with busError := true } } else s

/-- Another agent writes a byte (R113, R114). A byte that the command in progress owns is remembered. -/
def agentWriteByte (a : Nat) (v : Byte) (s : State) : State :=
  { s with
    mem := s.mem.write a v
    hazard :=
      { s.hazard with
        readHit := s.hazard.readHit || inBuffers a (ownedReads s)
        writeHits :=
          if inBuffers a (ownedWrites s) then a :: s.hazard.writeHits else s.hazard.writeHits } }

/-- Another agent reads a byte: what the data space holds, or any value if the command in progress owns
it as an output (R114). -/
def agentReadByte (a : Nat) (s : State) : State :=
  if inBuffers a (ownedWrites s) then
    { s with agentData := Config.freeByte s.freeIx, freeIx := s.freeIx + 1 }
  else { s with agentData := s.mem.read a }

/-- The reset input is asserted: a command in progress is aborted, every byte of the write buffers it
owned is any value, and the registers take their reset values (R581, R582). -/
def assertReset (s : State) : State := resetRegisters (scrambleBuffers (ownedWrites s) s)

/-- The reset input is released: the block leaves reset idle (R581). -/
def releaseReset (s : State) : State := { s with inReset := false }

/-- What one input does. An address that does not exist faults (R100): DESIGN CHOICE
(notes/assumptions/12.md). -/
def handle (e : Event) (s : State) : Host.Outcome State Fault Refusal :=
  match e with
  | .port t => .next (portAccess t s)
  | .host h => .next (hostAccess h s)
  | .engine => engineTurn s
  | .busError => .next (noteBusError s)
  | .agentWrite a v =>
    if a.toNat < s.build.memSize then .next (agentWriteByte a.toNat v s)
    else .fault (.absentAddress a)
  | .agentRead a =>
    if a.toNat < s.build.memSize then .next (agentReadByte a.toNat s) else .fault (.absentAddress a)
  | .resetAssert => .next (assertReset s)
  | .resetRelease => .next (releaseReset s)

/-- The next thing that happens: the next input; with none to come, a command in progress completes and
an idle block stays as it is (R565, R595). -/
def advance (s : State) : Host.Outcome State Fault Refusal :=
  match s.inbox with
  | [] => engineTurn s
  | e :: rest => handle e { s with inbox := rest }

/-- A build that is no instance of this hardware is refused (R207, R100). DEDUCED
(notes/assumptions/18.md). -/
def refuseBuild : Host.Outcome State Fault Refusal := .refused .illegalBuild

/-- The state in which command word `w` has just been accepted and the engine has the next turn: where
this machine "fetches" its next instruction is `CTRL` (R118, R160). DESIGN CHOICE
(notes/assumptions/8.md). -/
def acceptedWord (w : Word) (s : State) : State :=
  { accept w s with inReset := false, inbox := .engine :: s.inbox }

end Sys2Proof.Machine
end

