-- ==== Sys2Proof/Machine/Step.lean ====
section
/-!
DEFINITION. One step of the machine: the next input or the engine's turn (spec/10_state.md rule R30: "a
model's step is indexed by the host's transaction sequence, not by an address").
-/

namespace Sys2Proof.Machine

/-- One step. -/
def step (s : State) : Host.Outcome State Fault Refusal :=
  if s.build.wellFormed then advance s else refuseBuild

/-- The state whose next step runs exactly the command of this word. -/
def State.withFetchWord (s : State) (nbits w : Nat) : State :=
  acceptedWord (BitVec.ofNat 32 (w % 2 ^ nbits)) s

end Sys2Proof.Machine
end

