-- ==== Sys2Proof/Safety.lean ====
section
/-!
DEFINITION. What counts as a safe run: the invariant that reset establishes and every step keeps, the
state in which a command has ended, and the words in which the statements speak of buffers and registers.
-/

namespace Sys2Proof.Machine

/-- The registers and flags are at their reset values (R580), as they stay while reset is asserted
(R581). -/
def AtReset (s : State) : Prop := resetRegisters s = s

/-- The tables of the cipher instance are those that some KEY_INIT of this build installs (R40, R43). -/
def CipherInstalled (s : State) : Prop :=
  ∃ key : List Byte, (key.length = 16 ∨ key.length = 24 ∨ key.length = 32) ∧
    s.cipher = construct s.build key

/-- The invariant of every run: the data space is canonical and lists only bytes that exist (R100); `ERR`
holds one of the codes of rule R521; `DONE` and `ERR` are 0 while a command is in progress (R33); an idle
block has no command that could be disturbed; a valid key has its tables (R40); and while reset is
asserted the registers are at their reset values (R581). -/
structure Inv (s : State) : Prop where
  memCanonical : s.mem.wf
  memExists : s.mem.within s.build.memSize
  errCode : s.err.toNat ≤ 12
  busyNotDone : s.busy = true → s.done = false ∧ s.err = 0
  idleUndisturbed : s.busy = false → s.hazard = {}
  keyTables : s.keyValid = true → CipherInstalled s
  heldInReset : s.inReset = true → AtReset s

/-- No other agent and no bus error has disturbed the command in progress (R114, R115). -/
def Undisturbed (s : State) : Prop := s.hazard = {}

/-- The state in which a command has ended with a completion code: "`STATUS.ERR <- code`; `STATUS.BUSY <-
0`; `STATUS.DONE <- 1`; `IRQ_STATUS.DONE_IP <- 1`" (R163). -/
def ended (code : Byte) (s : State) : State :=
  { s with busy := false, done := true, err := code, doneIp := true, hazard := {} }

/-- A memory command ends with `ERR_BUS` (R115): nothing but the completion and the bytes of its write buffer,
the `n` bytes from `a`, changes; the free values behind those bytes are consumed. -/
def EndsInBusError (i : Instr) (s : State) (a n : Nat) : Prop :=
  ∃ t, exec i s = .next t ∧ t = ended 12 { s with mem := t.mem, freeIx := t.freeIx } ∧
    ∀ x, ¬(a ≤ x ∧ x < a + n) → t.mem.read x = s.mem.read x

/-- The `n` bytes from `a` exist, without wrap (R103 `InRange`). -/
abbrev Fits (memSize a n : Nat) : Prop := n = 0 ∨ a + n ≤ memSize

/-- Two buffers share no byte (the negation of R103 `Overlap`). -/
abbrev Apart (a n b m : Nat) : Prop := n = 0 ∨ m = 0 ∨ a + n ≤ b ∨ b + m ≤ a

/-- Block `k` of a text: its 16 bytes from byte `16 k` on (R351, R352). -/
def blockOf (bs : List Byte) (k : Nat) : Block := Block.load ((bs.drop (16 * k)).take 16)

/-- The registers that a command freezes (R34 a, b), each with the number of its bits in use (R32): the
read-write registers other than `CTRL`, `IRQ_EN` and `IRQ_STATUS`. -/
def frozenWidth (r : Reg) : Option Nat :=
  match r with
  | .opa | .opb | .key _ | .iv _ | .srcAddr | .dstAddr | .len | .auxAddr | .bitpos | .noiseMilli
  | .rngSeed | .maxExtract => some 32
  | .imgW | .imgH => some 16
  | .keyLen | .imgC => some 8
  | .id | .version | .ctrl | .status | .irqEn | .irqStatus | .res | .outLen | .sboxWin _
  | .invsboxWin _ | .rconWin _ | .rkWin _ => none

/-- The read-only registers (R32, R34 e). -/
def readOnly (r : Reg) : Bool :=
  match r with
  | .id | .version | .status | .res | .outLen | .sboxWin _ | .invsboxWin _ | .rconWin _ | .rkWin _ => true
  | .ctrl | .irqEn | .irqStatus | .opa | .opb | .keyLen | .key _ | .iv _ | .srcAddr | .dstAddr | .len
  | .auxAddr | .imgW | .imgH | .imgC | .bitpos | .noiseMilli | .rngSeed | .maxExtract => false

/-- The commands that access the data space (R106). -/
def accessesMemory (i : Instr) : Bool :=
  match i with
  | .encBlock | .decBlock | .cbcEnc | .cbcDec | .embed | .extract | .noise => true
  | .nop | .gfPmul | .gfReduce | .gfXtime | .gfMul | .gfInv | .gfAffine | .gfSbox | .sboxLookup
  | .invsboxLookup | .keyInit => false

/-- The commands that end with a value in `RES` (R36). -/
def writesResult (i : Instr) : Bool :=
  match i with
  | .gfPmul | .gfReduce | .gfXtime | .gfMul | .gfInv | .gfAffine | .gfSbox | .sboxLookup
  | .invsboxLookup => true
  | .nop | .keyInit | .encBlock | .decBlock | .cbcEnc | .cbcDec | .embed | .extract | .noise => false

end Sys2Proof.Machine
end

