-- ==== Sys2Proof/Certificates/Slice0/Obligations.lean ====
section
/-!
DEFINITION. The statements for the provers, one definition each, in the order of OBLIGATIONS.json: the
encoding, the step, the register port, the interrupt, the errors, reset, the commands' results and frames,
the laws of the pure functions, and the properties of the whole machine.
-/

open Sys2Proof Sys2Proof.Machine

/-! ### Encoding (spec/30_encoding.md) -/

/-- R152: the eighteen words of the command map are their commands, and a word on each side of a gap, or
with a reserved bit set, is none. -/
def Obligations.TabledWordsDecode : Prop :=
  decode 0x00000000 = .ok .nop ∧ decode 0x00000001 = .ok .gfPmul ∧ decode 0x00000002 = .ok .gfReduce ∧
  decode 0x00000003 = .ok .gfXtime ∧ decode 0x00000004 = .ok .gfMul ∧ decode 0x00000005 = .ok .gfInv ∧
  decode 0x00000006 = .ok .gfAffine ∧ decode 0x00000007 = .ok .gfSbox ∧
  decode 0x00000008 = .ok .sboxLookup ∧ decode 0x00000009 = .ok .invsboxLookup ∧
  decode 0x00000010 = .ok .keyInit ∧ decode 0x00000011 = .ok .encBlock ∧
  decode 0x00000012 = .ok .decBlock ∧ decode 0x00000013 = .ok .cbcEnc ∧
  decode 0x00000014 = .ok .cbcDec ∧ decode 0x00000020 = .ok .embed ∧
  decode 0x00000021 = .ok .extract ∧ decode 0x00000030 = .ok .noise ∧
  decode 0x0000000A = .error (.unknownCommand 0x0A) ∧
  decode 0x00000015 = .error (.unknownCommand 0x15) ∧
  decode 0x000000FF = .error (.unknownCommand 0xFF) ∧
  decode 0x00000101 = .error .reservedBits ∧ decode 0x80000005 = .error .reservedBits

/-- R150: a word is a command exactly when its code is tabled and its reserved bits are zero, and then it
is matched exactly: decoding and encoding are inverse to each other. -/
def Obligations.DecodeInvertsEncode : Prop :=
  (∀ i, decode (encode i) = .ok i) ∧ (∀ v i, decode v = .ok i → v = encode i) ∧
  ∀ v, (∃ i, decode v = .ok i) ↔ wordValid v = true

/-! ### The step -/

/-- A step at which the engine has the turn runs the command in `CTRL`: exactly `exec` of the decoded
command, at the state without the consumed input. -/
def Obligations.StepRunsDecodedCommand : Prop :=
  ∀ (s : State) (i : Instr) (rest : List Event), s.build.wellFormed = true → s.busy = true →
    s.inReset = false → decode s.ctrl = .ok i →
    (s.inbox = .engine :: rest ∨ (s.inbox = [] ∧ rest = [])) →
    step s = exec i { s with inbox := rest }

/-- A command word placed where the machine fetches runs as its command, accepted and undisturbed, on the
very next step. -/
def Obligations.PlacedWordRunsNext : Prop :=
  ∀ (s : State) (i : Instr), s.build.wellFormed = true →
    decodeTableWord 32 (encode i).toNat = some i ∧
    step (s.withFetchWord 32 (encode i).toNat) =
      exec i { s with ctrl := encode i, busy := true, done := false, err := 0, hazard := {},
                      inReset := false }

/-- R153: an illegal command word is accepted like any other, and completes with `ERR_CMD` and changes
nothing else. -/
def Obligations.IllegalWordCompletesWithErrCmd : Prop :=
  (∀ (s : State) (v : Word), s.build.wellFormed = true → s.busy = false → s.inReset = false →
    s.inbox = [.port ⟨true, 0x008, .word, v⟩] → wordValid v = false →
    ∃ t, step s = .next t ∧ t.busy = true ∧ t.ctrl = v ∧ step t = .next (ended 1 t)) ∧
  ∀ s : State, s.build.wellFormed = true → s.busy = true → s.inReset = false → s.inbox = [] →
    wordValid s.ctrl = false → step s = .next (ended 1 s)

/-- R160: a write of `CTRL` is accepted when the block is idle; when it is busy nothing but `WBUSY_IP`
changes; and while it is busy every frozen register keeps its value. -/
def Obligations.CtrlWriteStartsOrIsIgnored : Prop :=
  ∀ (s : State) (v : Word) (rest : List Event), s.build.wellFormed = true → s.inReset = false →
    s.inbox = .port ⟨true, 0x008, .word, v⟩ :: rest →
    (s.busy = false → step s = .next
      { s with ctrl := v, busy := true, done := false, err := 0, hazard := {}, portData := 0,
               portError := false, inbox := rest }) ∧
    (s.busy = true → step s = .next
      { s with wbusyIp := true, portData := 0, portError := false, inbox := rest }) ∧
    (s.busy = true → ∀ r, frozenWidth r ≠ none → ∀ w, writeReg r w s = { s with wbusyIp := true })

/-- R595, R565: with no input to come, a busy block completes its command in one step, whatever the
command word, and an idle block stays as it is. -/
def Obligations.BusyBlockCompletes : Prop :=
  ∀ s : State, s.build.wellFormed = true → s.inReset = false → s.inbox = [] →
    (s.busy = true → ∃ t, step s = .next t ∧ t.busy = false ∧ t.done = true ∧ t.doneIp = true) ∧
    (s.busy = false → step s = .next s)

/-- R163, R522: every command, in every state, ends in a next state in which it has completed, with one
of the codes of rule R521. -/
def Obligations.EveryCommandCompletes : Prop :=
  ∀ (i : Instr) (s : State), ∃ t, exec i s = .next t ∧ t.busy = false ∧ t.done = true ∧
    t.doneIp = true ∧ t.err.toNat ≤ 12

/-- A legal build never refuses, and only another agent's access to a byte that does not exist faults. -/
def Obligations.OnlyAbsentAddressesStop : Prop :=
  ∀ s : State, s.build.wellFormed = true →
    (∃ t, step s = .next t) ∨
      ∃ a rest, step s = .fault (.absentAddress a) ∧ s.build.memSize ≤ a.toNat ∧
        (s.inbox = .agentRead a :: rest ∨ ∃ v, s.inbox = .agentWrite a v :: rest)

/-! ### The register port (spec/10_state.md) -/

/-- R32: the byte offset of every register; and an offset is a register's exactly when it is the offset the
map gives it; all others are unmapped. R100: a host access at `REG_BASE` plus an offset is the port access at that offset; that one at
any other address does not reach the block is the model's reading (notes/assumptions/25.md). -/
def Obligations.RegisterMapIsExact : Prop :=
  (offsetOf .id = 0x000 ∧ offsetOf .version = 0x004 ∧ offsetOf .ctrl = 0x008 ∧
    offsetOf .status = 0x00C ∧ offsetOf .irqEn = 0x010 ∧ offsetOf .irqStatus = 0x014 ∧
    offsetOf .opa = 0x020 ∧ offsetOf .opb = 0x024 ∧ offsetOf .res = 0x028 ∧ offsetOf .keyLen = 0x030 ∧
    (∀ k : Fin 8, offsetOf (.key k) = 0x040 + 4 * k.val) ∧
    (∀ k : Fin 4, offsetOf (.iv k) = 0x060 + 4 * k.val) ∧
    offsetOf .srcAddr = 0x080 ∧ offsetOf .dstAddr = 0x084 ∧ offsetOf .len = 0x088 ∧
    offsetOf .auxAddr = 0x08C ∧ offsetOf .outLen = 0x090 ∧ offsetOf .imgW = 0x0A0 ∧
    offsetOf .imgH = 0x0A4 ∧ offsetOf .imgC = 0x0A8 ∧ offsetOf .bitpos = 0x0AC ∧
    offsetOf .noiseMilli = 0x0B0 ∧ offsetOf .rngSeed = 0x0B4 ∧ offsetOf .maxExtract = 0x0B8 ∧
    (∀ k : Fin 64, offsetOf (.sboxWin k) = 0x100 + 4 * k.val) ∧
    (∀ k : Fin 64, offsetOf (.invsboxWin k) = 0x200 + 4 * k.val) ∧
    (∀ k : Fin 64, offsetOf (.rconWin k) = 0x300 + 4 * k.val) ∧
    ∀ k : Fin 68, offsetOf (.rkWin k) = 0x400 + 4 * k.val) ∧
  (∀ (o : BitVec 12) (r : Reg), regAt o = some r ↔ o.toNat = offsetOf r) ∧
  ∀ (s : State) (w : Bool) (a : Nat) (k : AccessWidth) (d : Word) (rest : List Event),
    s.build.wellFormed = true → s.inbox = .host ⟨w, a, k, d⟩ :: rest →
    (∀ o : BitVec 12, a = s.build.regBase + o.toNat →
      step s = .next (portAccess ⟨w, o, k, d⟩ { s with inbox := rest }) ∧
      step s = step { s with inbox := .port ⟨w, o, k, d⟩ :: rest }) ∧
    ((∀ o : BitVec 12, a ≠ s.build.regBase + o.toNat) → step s = .next { s with inbox := rest })

/-- R34: what a well-formed register write does, by the access of the register it names. -/
def Obligations.RegisterWritesFollowAccess : Prop :=
  ∀ (s : State) (o : BitVec 12) (v : Word), s.inReset = false → o.toNat % 4 = 0 →
    (∀ r w, o.toNat = offsetOf r → frozenWidth r = some w → s.busy = false →
      (readReg (portAccess ⟨true, o, .word, v⟩ s) r).toNat = v.toNat % 2 ^ w ∧
      (∀ q, q ≠ r → readReg (portAccess ⟨true, o, .word, v⟩ s) q = readReg s q) ∧
      (portAccess ⟨true, o, .word, v⟩ s).mem = s.mem ∧
      (portAccess ⟨true, o, .word, v⟩ s).cipher = s.cipher) ∧
    (∀ r w, o.toNat = offsetOf r → frozenWidth r = some w → s.busy = true →
      portAccess ⟨true, o, .word, v⟩ s =
        { s with wbusyIp := true, portData := 0, portError := false }) ∧
    (o.toNat = offsetOf .ctrl →
      (s.busy = false → portAccess ⟨true, o, .word, v⟩ s =
        { s with ctrl := v, busy := true, done := false, err := 0, hazard := {}, portData := 0,
                 portError := false }) ∧
      (s.busy = true → portAccess ⟨true, o, .word, v⟩ s =
        { s with wbusyIp := true, portData := 0, portError := false })) ∧
    (o.toNat = offsetOf .irqEn → portAccess ⟨true, o, .word, v⟩ s =
      { s with doneIe := v.getLsbD 0, wbusyIe := v.getLsbD 1, portData := 0, portError := false }) ∧
    (o.toNat = offsetOf .irqStatus → portAccess ⟨true, o, .word, v⟩ s =
      { s with doneIp := s.doneIp && !v.getLsbD 0, wbusyIp := s.wbusyIp && !v.getLsbD 1,
               portData := 0, portError := false }) ∧
    (((∃ r, o.toNat = offsetOf r ∧ readOnly r = true) ∨ ∀ r, o.toNat ≠ offsetOf r) →
      portAccess ⟨true, o, .word, v⟩ s = { s with portData := 0, portError := false })

/-- R35: a register read changes nothing but the port's answer, which is the register's value, or 0 at an
unmapped offset. R32, R35: that value is the register's own field, with zeros above the bits in use; `CTRL`
reads the last accepted command word; `ID` and `VERSION` are constants in every state. `STATUS`,
`IRQ_STATUS` and the table windows have statements of their own. -/
def Obligations.RegisterReadsOnlyAnswer : Prop :=
  (∀ s : State,
    readReg s .id = 0x53544730 ∧ readReg s .version = 0x00070001 ∧ readReg s .ctrl = s.ctrl ∧
    (∀ k, (readReg s .irqEn).getLsbD k =
      ((decide (k = 0) && s.doneIe) || (decide (k = 1) && s.wbusyIe))) ∧
    readReg s .opa = s.opa ∧ readReg s .opb = s.opb ∧ readReg s .res = s.res ∧
    (readReg s .keyLen).toNat = s.keyLen.toNat ∧
    (∀ k : Fin 8, readReg s (.key k) = s.key[k]) ∧ (∀ k : Fin 4, readReg s (.iv k) = s.iv[k]) ∧
    readReg s .srcAddr = s.srcAddr ∧ readReg s .dstAddr = s.dstAddr ∧ readReg s .len = s.len ∧
    readReg s .auxAddr = s.auxAddr ∧ readReg s .outLen = s.outLen ∧
    (readReg s .imgW).toNat = s.imgW.toNat ∧ (readReg s .imgH).toNat = s.imgH.toNat ∧
    (readReg s .imgC).toNat = s.imgC.toNat ∧ readReg s .bitpos = s.bitpos ∧
    readReg s .noiseMilli = s.noiseMilli ∧ readReg s .rngSeed = s.rngSeed ∧
    readReg s .maxExtract = s.maxExtract) ∧
  ∀ (s : State) (o : BitVec 12) (d : Word), s.inReset = false → o.toNat % 4 = 0 →
    (∀ r, o.toNat = offsetOf r → portAccess ⟨false, o, .word, d⟩ s =
      { s with portData := readReg s r, portError := false }) ∧
    ((∀ r, o.toNat ≠ offsetOf r) → portAccess ⟨false, o, .word, d⟩ s =
      { s with portData := 0, portError := false })

/-- R110: any other access than an aligned 32-bit word is answered with a bus error and 0, and changes no
register and no flag. -/
def Obligations.MalformedAccessHasNoEffect : Prop :=
  ∀ (s : State) (t : PortAccess), (t.width ≠ .word ∨ t.offset.toNat % 4 ≠ 0) →
    portAccess t s = { s with portData := 0, portError := true }

/-- R33: where the fields of `STATUS` read, and that every other bit reads 0. -/
def Obligations.StatusFieldsAreInPlace : Prop :=
  ∀ s : State,
    (readReg s .status).getLsbD 0 = s.busy ∧ (readReg s .status).getLsbD 1 = s.done ∧
    (readReg s .status).getLsbD 2 = s.keyValid ∧
    (∀ k, 3 ≤ k → k < 8 → (readReg s .status).getLsbD k = false) ∧
    (∀ k, k < 8 → (readReg s .status).getLsbD (8 + k) = s.err.getLsbD k) ∧
    ∀ k, 16 ≤ k → (readReg s .status).getLsbD k = false

/-- R41, R42: the table windows show the cipher instance, four bytes a word with the first in the low
bits, and read 0 while there is none or a command is in progress. -/
def Obligations.TableWindowsShowTheInstance : Prop :=
  ∀ s : State,
    (s.keyValid = false ∨ s.busy = true →
      (∀ k, readReg s (.sboxWin k) = 0) ∧ (∀ k, readReg s (.invsboxWin k) = 0) ∧
      (∀ k, readReg s (.rconWin k) = 0) ∧ ∀ k, readReg s (.rkWin k) = 0) ∧
    (s.keyValid = true → s.busy = false →
      (∀ (k : Fin 64) (j : Fin 4),
        byteOf (readReg s (.sboxWin k)) j.val = s.cipher.sbox[4 * k.val + j.val] ∧
        byteOf (readReg s (.invsboxWin k)) j.val = s.cipher.invSbox[4 * k.val + j.val] ∧
        byteOf (readReg s (.rconWin k)) j.val = s.cipher.rcon[4 * k.val + j.val]) ∧
      ∀ (r : Fin 17) (i j : Fin 4),
        byteOf (readReg s (.rkWin ⟨4 * r.val + i.val, by omega⟩)) j.val = (s.cipher.rk[r]).at i j)

/-- R37: key and IV bytes are packed little-endian by byte index; key bytes at index `KEY_LEN` and above
are read by no command; no command writes the key or IV registers. -/
def Obligations.KeyAndIvArePackedAndKept : Prop :=
  (∀ (s : State) (k : Fin 32) (j : Nat), j < 8 →
    (keyByte s k.val).getLsbD j = (s.key[k.val / 4]).getLsbD (8 * (k.val % 4) + j)) ∧
  (∀ (s : State) (k : Fin 16) (j : Nat), j < 8 →
    (ivByte s k.val).getLsbD j = (s.iv[k.val / 4]).getLsbD (8 * (k.val % 4) + j)) ∧
  (∀ (i : Instr) (s t : State) (key' : Vector Word 8), exec i s = .next t →
    (∀ k, k < s.keyLen.toNat → keyByte { s with key := key' } k = keyByte s k) →
    exec i { s with key := key' } = .next { t with key := key' }) ∧
  ∀ (i : Instr) (s t : State), exec i s = .next t → t.key = s.key ∧ t.iv = s.iv

/-! ### The interrupt (spec/60_exceptions.md) -/

/-- R540: a write of `IRQ_EN` sets the two enables at once, busy or not, leaves the pending bits, and its
other bits read 0. -/
def Obligations.IrqEnableTakesEffectAtOnce : Prop :=
  (State.reset.doneIe = false ∧ State.reset.wbusyIe = false) ∧
  ∀ (s : State) (v : Word), s.inReset = false →
    portAccess ⟨true, 0x010, .word, v⟩ s =
      { s with doneIe := v.getLsbD 0, wbusyIe := v.getLsbD 1, portData := 0, portError := false } ∧
    ∀ k, (readReg (portAccess ⟨true, 0x010, .word, v⟩ s) .irqEn).getLsbD k =
      (decide (k < 2) && v.getLsbD k)

/-- R541: who sets and who clears the pending bits. The last clause is the model's serialisation of a
clear and a completion that happen together (notes/assumptions/4.md): the event is not lost. -/
def Obligations.PendingBitsSetByEventsClearedByOnes : Prop :=
  (∀ (i : Instr) (s t : State), exec i s = .next t → t.doneIp = true ∧ t.wbusyIp = s.wbusyIp) ∧
  (∀ (s : State) (r : Reg) (v : Word), s.busy = true → frozenWidth r ≠ none ∨ r = .ctrl →
    (writeReg r v s).wbusyIp = true) ∧
  (∀ (s : State) (v : Word), writeReg .irqStatus v s =
    { s with doneIp := s.doneIp && !v.getLsbD 0, wbusyIp := s.wbusyIp && !v.getLsbD 1 }) ∧
  (∀ (s : State) (k : Nat), (readReg s .irqStatus).getLsbD k =
    ((decide (k = 0) && s.doneIp) || (decide (k = 1) && s.wbusyIp))) ∧
  ∀ (i : Instr) (s t : State) (v : Word), exec i (writeReg .irqStatus v s) = .next t → t.doneIp = true

/-- R542: the interrupt line is the two pending bits under their enables; it resets to 0; and once
asserted it stays so until a write of `IRQ_EN` or `IRQ_STATUS`, by port offset or by host address, or
reset. -/
def Obligations.InterruptStaysUntilCleared : Prop :=
  (∀ s : State, s.inReset = false →
    (irq s = true ↔
      (s.doneIp = true ∧ s.doneIe = true) ∨ (s.wbusyIp = true ∧ s.wbusyIe = true))) ∧
  irq State.reset = false ∧
  ∀ s t : State, step s = .next t → irq s = true → irq t = false →
    ∃ e rest, s.inbox = e :: rest ∧
      (e = .resetAssert ∨ ∃ a : PortAccess,
        (e = .port a ∨ ∃ h, e = .host h ∧ windowAccess s.build h = some a) ∧ a.write = true ∧
        (a.offset.toNat = offsetOf .irqEn ∨ a.offset.toNat = offsetOf .irqStatus))

/-! ### Errors (spec/60_exceptions.md) -/

/-- R520: a command whose check fails ends with that check's code and changes nothing but the completion;
so does every command that ends with an error other than `ERR_BUS`; and no check reads memory, so that the
error a command reports is the same whatever the data space holds (R522). -/
def Obligations.ErrorsChangeNothingElse : Prop :=
  (∀ (i : Instr) (s : State) (e : ErrCode), firstError i s = some e →
    exec i s = .next (ended e.code s) ∧ e.code ≠ 0 ∧ e.code ≠ 12) ∧
  (∀ (i : Instr) (s t : State), exec i s = .next t → t.err ≠ 0 → t.err ≠ 12 → t = ended t.err s) ∧
  ∀ (i : Instr) (s t u : State) (m : Memory), exec i s = .next t →
    exec i { s with mem := m } = .next u → u.err = t.err

/-- R115: a bus error response ends a memory command whose checks pass with `ERR_BUS`; bytes outside its
write buffers, `RES`, `OUT_LEN` and the tables are unchanged, and each byte inside is any value, which is to
say a free value, which is the model's choice of form (notes/assumptions/9.md); and without one, or for a
command that makes no access because all its buffers are empty (CBC_DEC of no bytes, notes/assumptions/13.md),
it ends with success. The same as two steps, in the model's order of inputs (notes/assumptions/4.md): the
platform's response reaches a busy block, and the engine then ends the command. Where another agent wrote a
read buffer too, R114 leaves `OUT_LEN` any value, and nothing is said of it. -/
def Obligations.BusErrorEndsTheCommand : Prop :=
  ∀ (i : Instr) (s : State), accessesMemory i = true → firstError i s = none →
    ((s.hazard.busError = true ∧ ∃ b ∈ readBuffers i s ++ writeBuffers i s, 0 < b.size) →
      ∃ t, exec i s = .next t ∧
        t = ended 12 { s with mem := t.mem, outLen := t.outLen, freeIx := t.freeIx } ∧
        (s.hazard.readHit = false → t.outLen = s.outLen) ∧
        (∀ a, inBuffers a (writeBuffers i s) = false → t.mem.read a = s.mem.read a) ∧
        ∀ a, inBuffers a (writeBuffers i s) = true → ∃ m, t.mem.read a = Config.freeByte m) ∧
    ((s.hazard.busError = false ∨ ∀ b ∈ readBuffers i s ++ writeBuffers i s, b.size = 0) →
      ∃ t, exec i s = .next t ∧ t.err = 0) ∧
    ∀ rest, s.build.wellFormed = true → s.busy = true → s.inReset = false → decode s.ctrl = .ok i →
      (∃ b ∈ readBuffers i s ++ writeBuffers i s, 0 < b.size) →
      s.inbox = .busError :: .engine :: rest →
      ∃ t u, step s = .next t ∧ step t = .next u ∧
        u = ended 12 { s with mem := u.mem, outLen := u.outLen, freeIx := u.freeIx, inbox := rest } ∧
        (s.hazard.readHit = false → u.outLen = s.outLen) ∧
        (∀ a, inBuffers a (writeBuffers i s) = false → u.mem.read a = s.mem.read a) ∧
        ∀ a, inBuffers a (writeBuffers i s) = true → ∃ m, u.mem.read a = Config.freeByte m

/-- R114: a command whose buffers other agents touched still completes; bytes outside its write buffers
are unchanged; and if no byte of its read buffers was written, every byte of its write buffers that was
not written either, and `OUT_LEN`, are what they would have been (both runs taking the same free values,
notes/assumptions/9.md); the others are free values. That `OUT_LEN` is one of them even where a bus error
meets the write to a read buffer, a case in which R115 would keep it, is the model's choice
(notes/assumptions/11.md). What the step of an agent's write, or of a bus error
response, leaves of it in `hazard` while the block is busy: which fields record it is the model's choice
(notes/assumptions/6.md), that only a command whose checks pass owns buffers is log entry 10, and that a
bus error response without a command does nothing is log entry 4. -/
def Obligations.DisturbedCommandStillCompletes : Prop :=
  (∀ (i : Instr) (s u : State), firstError i s = none → s.hazard.busError = false →
    exec i { s with hazard := {} } = .next u →
    ∃ t, exec i s = .next t ∧
      t = { u with mem := t.mem, outLen := t.outLen, freeIx := t.freeIx } ∧
      (∀ a, inBuffers a (writeBuffers i s) = false → t.mem.read a = u.mem.read a) ∧
      (s.hazard.readHit = false → t.outLen = u.outLen ∧
        ∀ a, a ∉ s.hazard.writeHits → t.mem.read a = u.mem.read a)) ∧
  (∀ (i : Instr) (s : State), accessesMemory i = true → firstError i s = none →
    ∃ t, exec i s = .next t ∧
      (s.hazard.readHit = true → (∃ m, t.outLen = Config.freeWord m) ∧
        ∀ a, inBuffers a (writeBuffers i s) = true → ∃ m, t.mem.read a = Config.freeByte m) ∧
      ∀ a ∈ s.hazard.writeHits, inBuffers a (writeBuffers i s) = true →
        ∃ m, t.mem.read a = Config.freeByte m) ∧
  (∀ (s : State) (a : Word) (v : Byte) (rest : List Event), s.build.wellFormed = true →
    s.busy = true → a.toNat < s.build.memSize → s.inbox = .agentWrite a v :: rest →
    ∃ t, step s = .next t ∧ t = { s with mem := t.mem, hazard := t.hazard, inbox := rest } ∧
      (∀ x, t.mem.read x = if x = a.toNat then v else s.mem.read x) ∧
      t.hazard.busError = s.hazard.busError ∧
      (∀ i, decode s.ctrl = .ok i → firstError i s = none →
        t.hazard.readHit = (s.hazard.readHit || inBuffers a.toNat (readBuffers i s)) ∧
        ∀ x, x ∈ t.hazard.writeHits ↔
          x ∈ s.hazard.writeHits ∨ (x = a.toNat ∧ inBuffers a.toNat (writeBuffers i s) = true)) ∧
      ((∀ i, decode s.ctrl = .ok i → firstError i s ≠ none) → t.hazard = s.hazard)) ∧
  ∀ (s : State) (rest : List Event), s.build.wellFormed = true → s.inbox = .busError :: rest →
    (s.busy = true →
      step s = .next { s with hazard := { s.hazard with busError := true }, inbox := rest }) ∧
    (s.busy = false → step s = .next { s with inbox := rest })

/-! ### Reset (spec/70_reset_and_hazards.md) -/

/-- R580: what every register, the interrupt line and the key flag read right after reset. -/
def Obligations.ResetValues : Prop :=
  readReg State.reset .id = 0x53544730 ∧ readReg State.reset .version = 0x00070001 ∧
  readReg State.reset .maxExtract = 0x00002710 ∧
  (∀ r, r ≠ .id → r ≠ .version → r ≠ .maxExtract → readReg State.reset r = 0) ∧
  irq State.reset = false ∧ State.reset.keyValid = false ∧ State.reset.busy = false

/-- R582, R583: asserting reset aborts a command in progress and puts every register at its reset value;
the data space keeps every byte but those of the write buffers of an aborted command. Two clauses are the
model's choice and no rule's: the tables become `Cipher.blank` (R580 leaves them unspecified,
notes/assumptions/3.md), and the last answers to the host and to other agents are kept
(notes/assumptions/6.md). -/
def Obligations.ResetAbortsAndKeepsMemory : Prop :=
  ∀ (s : State) (rest : List Event), s.build.wellFormed = true → s.inbox = .resetAssert :: rest →
    ∃ t, step s = .next t ∧
      t = { State.reset with
            mem := t.mem, freeIx := t.freeIx, inReset := true, build := s.build, inbox := rest,
            portData := s.portData, portError := s.portError, agentData := s.agentData } ∧
      (∀ a, (∀ i, decode s.ctrl = .ok i → inBuffers a (writeBuffers i s) = false) →
        t.mem.read a = s.mem.read a) ∧
      (s.busy = false → t.mem = s.mem)

/-- R581: while reset is asserted register reads return 0, writes are ignored and set nothing, the engine
does nothing and the interrupt line is 0; on release the block is idle at its reset values. That a
malformed access still gets its error response while reset is asserted is the model's choice
(notes/assumptions/14.md, DEDUCED): no rule says it. -/
def Obligations.HeldInResetNothingHappens : Prop :=
  ∀ s : State, s.inReset = true →
    irq s = false ∧
    (∀ t : PortAccess, portAccess t s =
      { s with portData := 0, portError := !(t.width == .word && t.offset.toNat % 4 == 0) }) ∧
    (∀ rest, s.build.wellFormed = true → s.inbox = .engine :: rest →
      step s = .next { s with inbox := rest }) ∧
    (∀ rest, Inv s → s.build.wellFormed = true → s.inbox = .resetRelease :: rest →
      ∃ t, step s = .next t ∧ t.inReset = false ∧ t.busy = false ∧
        ∀ r, readReg t r = readReg State.reset r)

/-! ### NOP, the field commands and the table lookups -/

/-- R500: NOP is the completion and nothing else. -/
def Obligations.NopOnlyCompletes : Prop :=
  decode 0x00000000 = .ok .nop ∧ ∀ s : State, exec .nop s = .next (ended 0 s)

/-- R210 to R215 and GF_SBOX: each field command ends with its zero-extended result in `RES` and changes
nothing else; it needs no key and cannot fail. -/
def Obligations.FieldCommandsWriteRes : Prop :=
  (decode 0x00000001 = .ok .gfPmul ∧ decode 0x00000002 = .ok .gfReduce ∧
    decode 0x00000003 = .ok .gfXtime ∧ decode 0x00000004 = .ok .gfMul ∧ decode 0x00000005 = .ok .gfInv ∧
    decode 0x00000006 = .ok .gfAffine ∧ decode 0x00000007 = .ok .gfSbox) ∧
  ∀ s : State,
    exec .gfPmul s = .next (ended 0 { s with
      res := (clmul (s.opa.extractLsb' 0 8) (s.opb.extractLsb' 0 8)).setWidth 32 }) ∧
    exec .gfReduce s = .next (ended 0 { s with
      res := (reduce (s.opa.extractLsb' 0 16)).setWidth 32 }) ∧
    exec .gfXtime s = .next (ended 0 { s with
      res := (xtime (s.opa.extractLsb' 0 8)).setWidth 32 }) ∧
    exec .gfMul s = .next (ended 0 { s with
      res := (fmul (s.opa.extractLsb' 0 8) (s.opb.extractLsb' 0 8)).setWidth 32 }) ∧
    exec .gfInv s = .next (ended 0 { s with
      res := (inv (s.opa.extractLsb' 0 8)).setWidth 32 }) ∧
    exec .gfAffine s = .next (ended 0 { s with
      res := (affine s.build (s.opa.extractLsb' 0 8)).setWidth 32 }) ∧
    exec .gfSbox s = .next (ended 0 { s with
      res := (affine s.build (inv (s.opa.extractLsb' 0 8))).setWidth 32 })

/-- R270, R271, R216: the lookups end with `ERR_NOKEY` without a cipher instance, and else with the table
entry at `OPA[7:0]` in `RES`; and with the tables that a KEY_INIT installed, SBOX_LOOKUP and GF_SBOX end in
the same state. -/
def Obligations.LookupsReadTheTables : Prop :=
  (decode 0x00000008 = .ok .sboxLookup ∧ decode 0x00000009 = .ok .invsboxLookup) ∧
  ∀ s : State,
    (s.keyValid = false → exec .sboxLookup s = .next (ended 3 s) ∧
      exec .invsboxLookup s = .next (ended 3 s)) ∧
    (s.keyValid = true →
      exec .sboxLookup s = .next (ended 0 { s with
        res := (lookup s.cipher.sbox (s.opa.extractLsb' 0 8)).setWidth 32 }) ∧
      exec .invsboxLookup s = .next (ended 0 { s with
        res := (lookup s.cipher.invSbox (s.opa.extractLsb' 0 8)).setWidth 32 })) ∧
    (s.keyValid = true → CipherInstalled s → exec .sboxLookup s = exec .gfSbox s)

/-! ### KEY_INIT -/

/-- R260: KEY_INIT installs the whole cipher instance of the key and sets `KEY_VALID`; with an unsupported
key length it ends with `ERR_KEYLEN` and changes nothing else. -/
def Obligations.KeyInitInstallsOrFails : Prop :=
  decode 0x00000010 = .ok .keyInit ∧
  ∀ s : State,
    (s.keyLen ≠ 16 → s.keyLen ≠ 24 → s.keyLen ≠ 32 → exec .keyInit s = .next (ended 2 s)) ∧
    (s.keyLen = 16 ∨ s.keyLen = 24 ∨ s.keyLen = 32 →
      exec .keyInit s = .next (ended 0 { s with
        cipher := construct s.build ((List.range s.keyLen.toNat).map (keyByte s))
        keyValid := true }))

/-- R251, R252: in a legal build the S-box of a constructed cipher is the computed entries, it is a
bijection, and the inverse table undoes it on both sides. -/
def Obligations.SboxIsBijective : Prop :=
  ∀ (bld : Build) (key : List Byte), bld.wellFormed = true →
    (∀ x, lookup (construct bld key).sbox x = affine bld (inv x)) ∧
    (∀ x, lookup (construct bld key).invSbox (lookup (construct bld key).sbox x) = x) ∧
    (∀ y, lookup (construct bld key).sbox (lookup (construct bld key).invSbox y) = y)

/-- R253: the round constants, that they have period 51 from index 1 on, and that they are the `RCON` of every
cipher instance that KEY_INIT constructs. -/
def Obligations.RoundConstantsFollowXtime : Prop :=
  (∀ (bld : Build) (key : List Byte), (construct bld key).rcon = rconTable) ∧
  rconTable[0] = 0 ∧ rconTable[1] = 1 ∧
  (∀ n : Fin 256, 2 ≤ n.val → rconTable[n] = xtime (rconTable[n.val - 1])) ∧
  ∀ n : Fin 205, 1 ≤ n.val → rconTable[n.val + 51] = rconTable[n.val]

/-- R255, R256, R258: byte `b` of word `i` of the round keys. The first words are the key; every later
word is the exclusive-or of the word `Nk` back and the transformed preceding word, the rotation of word
`i` using round constant `i / Nk`; and there are 68 words for every key length. -/
def Obligations.KeyScheduleRecurrence : Prop :=
  ∀ (bld : Build) (key : List Byte),
    key.length = 16 ∨ key.length = 24 ∨ key.length = 32 →
    ∀ (i : Fin 68) (b : Fin 4),
      (i.val < key.length / 4 →
        (construct bld key).rk[i.val / 4][4 * (i.val % 4) + b.val] = key.getD (4 * i.val + b.val) 0) ∧
      (key.length / 4 ≤ i.val →
        (construct bld key).rk[i.val / 4][4 * (i.val % 4) + b.val] =
          (construct bld key).rk[(i.val - key.length / 4) / 4][
            4 * ((i.val - key.length / 4) % 4) + b.val] ^^^
          (if i.val % (key.length / 4) = 0 then
            lookup (construct bld key).sbox
              ((construct bld key).rk[(i.val - 1) / 4][4 * ((i.val - 1) % 4) + (b.val + 1) % 4]) ^^^
            (if b = 0 then (rconTable.getD (i.val / (key.length / 4)) 0) else 0)
          else if key.length = 32 ∧ i.val % 8 = 4 then
            lookup (construct bld key).sbox
              ((construct bld key).rk[(i.val - 1) / 4][4 * ((i.val - 1) % 4) + b.val])
          else (construct bld key).rk[(i.val - 1) / 4][4 * ((i.val - 1) % 4) + b.val]))

/-! ### The memory commands: results, errors and frames -/

/-- R275 to R278, R281, R284: the byte at each row and column after each step of encryption, for both
orientations, and `E` as round key 0, the fifteen full rounds and the last one without mixing. R290:
ENC_BLOCK. The five errors in order; and on success `E` of the source block at `DST_ADDR`, `OUT_LEN = 16`,
and nothing else changed. -/
def Obligations.EncBlockEffect : Prop :=
  decode 0x00000011 = .ok .encBlock ∧
  (∀ (bs : List Byte) (b : Block) (i j : Fin 4),
    (Block.load bs).at i j = bs.getD (4 * i.val + j.val) 0 ∧
    b.store.getD (4 * i.val + j.val) 0 = b.at i j ∧ b.store.length = 16) ∧
  (∀ (c : Cipher) (b : Block) (r : Fin 17) (i j : Fin 4),
    (addRoundKey c r.val b).at i j = b.at i j ^^^ (c.rk[r]).at i j ∧
    addRoundKey c r.val (addRoundKey c r.val b) = b ∧
    (subBytes c b).at i j = c.sbox.getD (b.at i j).toNat 0 ∧
    (invSubBytes c b).at i j = c.invSbox.getD (b.at i j).toNat 0 ∧
    (shiftRows .rows b).at i j = b.at i (j + i) ∧
    (shiftRows .columns b).at i j = b.at (i + j) j ∧
    (mixColumns .rows b).at i j = mixVec (fun k => b.at k j) i ∧
    (mixColumns .columns b).at i j = mixVec (fun k => b.at i k) j) ∧
  (∀ (c : Cipher) (o : Orient) (b : Block), encrypt c o b =
    addRoundKey c 16 (shiftRows o (subBytes c
      (([1, 2, 3, 4, 5, 6, 7, 8, 9, 10, 11, 12, 13, 14, 15] : List Nat).foldl
        (fun x r => addRoundKey c r (mixColumns o (shiftRows o (subBytes c x))))
        (addRoundKey c 0 b))))) ∧
  ∀ s : State,
    (s.keyValid = false → exec .encBlock s = .next (ended 3 s)) ∧
    (s.keyValid = true → s.len ≠ 16 → exec .encBlock s = .next (ended 4 s)) ∧
    (s.keyValid = true → s.len = 16 →
      ¬(Fits s.build.memSize s.srcAddr.toNat 16 ∧ Fits s.build.memSize s.dstAddr.toNat 16) →
      exec .encBlock s = .next (ended 10 s)) ∧
    (s.keyValid = true → s.len = 16 → Fits s.build.memSize s.srcAddr.toNat 16 →
      Fits s.build.memSize s.dstAddr.toNat 16 → s.srcAddr ≠ s.dstAddr →
      ¬Apart s.srcAddr.toNat 16 s.dstAddr.toNat 16 → exec .encBlock s = .next (ended 11 s)) ∧
    (s.keyValid = true → s.len = 16 → Fits s.build.memSize s.srcAddr.toNat 16 →
      Fits s.build.memSize s.dstAddr.toNat 16 →
      (s.srcAddr = s.dstAddr ∨ Apart s.srcAddr.toNat 16 s.dstAddr.toNat 16) → s.hazard.busError = true →
      s.hazard.readHit = false → EndsInBusError .encBlock s s.dstAddr.toNat 16) ∧
    (s.keyValid = true → s.len = 16 → Fits s.build.memSize s.srcAddr.toNat 16 →
      Fits s.build.memSize s.dstAddr.toNat 16 →
      (s.srcAddr = s.dstAddr ∨ Apart s.srcAddr.toNat 16 s.dstAddr.toNat 16) → Undisturbed s →
      ∃ t, exec .encBlock s = .next t ∧ t = ended 0 { s with mem := t.mem, outLen := 16 } ∧
        t.mem.readBytes s.dstAddr.toNat 16 =
          (encrypt s.cipher s.build.orient
            (Block.load (s.mem.readBytes s.srcAddr.toNat 16))).store ∧
        ∀ a, ¬(s.dstAddr.toNat ≤ a ∧ a < s.dstAddr.toNat + 16) → t.mem.read a = s.mem.read a)

/-- R279, R283, R285: the byte at each row and column after each step of decryption, for both
orientations, and `D` as the exact inverse sequence in reverse order. R291: DEC_BLOCK, as ENC_BLOCK with
`D`. -/
def Obligations.DecBlockEffect : Prop :=
  decode 0x00000012 = .ok .decBlock ∧
  (∀ (c : Cipher) (b : Block) (i j : Fin 4),
    (invSubBytes c b).at i j = c.invSbox.getD (b.at i j).toNat 0 ∧
    (invShiftRows .rows b).at i j = b.at i (j - i) ∧
    (invShiftRows .columns b).at i j = b.at (i - j) j ∧
    (invMixColumns .rows b).at i j = invMixVec (fun k => b.at k j) i ∧
    (invMixColumns .columns b).at i j = invMixVec (fun k => b.at i k) j) ∧
  (∀ (o : Orient) (b : Block),
    invShiftRows o (shiftRows o b) = b ∧ shiftRows o (invShiftRows o b) = b) ∧
  (∀ (c : Cipher) (o : Orient) (b : Block), decrypt c o b =
    addRoundKey c 0
      (([15, 14, 13, 12, 11, 10, 9, 8, 7, 6, 5, 4, 3, 2, 1] : List Nat).foldl
        (fun x r => invSubBytes c (invShiftRows o (invMixColumns o (addRoundKey c r x))))
        (invSubBytes c (invShiftRows o (addRoundKey c 16 b))))) ∧
  ∀ s : State,
    (s.keyValid = false → exec .decBlock s = .next (ended 3 s)) ∧
    (s.keyValid = true → s.len ≠ 16 → exec .decBlock s = .next (ended 4 s)) ∧
    (s.keyValid = true → s.len = 16 →
      ¬(Fits s.build.memSize s.srcAddr.toNat 16 ∧ Fits s.build.memSize s.dstAddr.toNat 16) →
      exec .decBlock s = .next (ended 10 s)) ∧
    (s.keyValid = true → s.len = 16 → Fits s.build.memSize s.srcAddr.toNat 16 →
      Fits s.build.memSize s.dstAddr.toNat 16 → s.srcAddr ≠ s.dstAddr →
      ¬Apart s.srcAddr.toNat 16 s.dstAddr.toNat 16 → exec .decBlock s = .next (ended 11 s)) ∧
    (s.keyValid = true → s.len = 16 → Fits s.build.memSize s.srcAddr.toNat 16 →
      Fits s.build.memSize s.dstAddr.toNat 16 →
      (s.srcAddr = s.dstAddr ∨ Apart s.srcAddr.toNat 16 s.dstAddr.toNat 16) → s.hazard.busError = true →
      s.hazard.readHit = false → EndsInBusError .decBlock s s.dstAddr.toNat 16) ∧
    (s.keyValid = true → s.len = 16 → Fits s.build.memSize s.srcAddr.toNat 16 →
      Fits s.build.memSize s.dstAddr.toNat 16 →
      (s.srcAddr = s.dstAddr ∨ Apart s.srcAddr.toNat 16 s.dstAddr.toNat 16) → Undisturbed s →
      ∃ t, exec .decBlock s = .next t ∧ t = ended 0 { s with mem := t.mem, outLen := 16 } ∧
        t.mem.readBytes s.dstAddr.toNat 16 =
          (decrypt s.cipher s.build.orient
            (Block.load (s.mem.readBytes s.srcAddr.toNat 16))).store ∧
        ∀ a, ¬(s.dstAddr.toNat ≤ a ∧ a < s.dstAddr.toNat + 16) → t.mem.read a = s.mem.read a)

/-- R350, R351: the bytes of the padded text, and each block of the chained encryption, which is `E` of the
padded block exclusive-or the ciphertext block before it, or the IV before the first. R354: CBC_ENC, with
`n = LEN` and `L = 16 - (n mod 16)`. The errors in order, the bus error last; and on success the `n + L` bytes of the chained encryption at `DST_ADDR`, `OUT_LEN = n + L` where the register can
hold it (the one case in which it cannot is the model's free value, notes/assumptions/7.md), and nothing
else changed. -/
def Obligations.CbcEncEffect : Prop :=
  decode 0x00000013 = .ok .cbcEnc ∧
  (∀ p : List Byte, (pad p).length = p.length + (16 - p.length % 16) ∧
    (∀ k, k < p.length → (pad p).getD k 0 = p.getD k 0) ∧
    ∀ k, p.length ≤ k → k < p.length + (16 - p.length % 16) →
      ((pad p).getD k 0).toNat = 16 - p.length % 16) ∧
  (∀ (a b : Block) (i j : Fin 4), (Block.xor a b).at i j = a.at i j ^^^ b.at i j) ∧
  (∀ (s : State) (i j : Fin 4), (ivBlock s).at i j = ivByte s (4 * i.val + j.val)) ∧
  (∀ (c : Cipher) (o : Orient) (iv : Block) (p : List Byte),
    (cbcEncrypt c o iv p).length = (pad p).length ∧
    ∀ k, 16 * k < (pad p).length →
      blockOf (cbcEncrypt c o iv p) k = encrypt c o (Block.xor (blockOf (pad p) k)
        (if k = 0 then iv else blockOf (cbcEncrypt c o iv p) (k - 1)))) ∧
  ∀ (s : State) (n m : Nat), n = s.len.toNat → m = n + (16 - n % 16) →
    (s.keyValid = false → exec .cbcEnc s = .next (ended 3 s)) ∧
    (s.keyValid = true →
      ¬(Fits s.build.memSize s.srcAddr.toNat n ∧ Fits s.build.memSize s.dstAddr.toNat m) →
      exec .cbcEnc s = .next (ended 10 s)) ∧
    (s.keyValid = true → Fits s.build.memSize s.srcAddr.toNat n →
      Fits s.build.memSize s.dstAddr.toNat m → s.srcAddr ≠ s.dstAddr →
      ¬Apart s.srcAddr.toNat n s.dstAddr.toNat m → exec .cbcEnc s = .next (ended 11 s)) ∧
    (s.keyValid = true → Fits s.build.memSize s.srcAddr.toNat n →
      Fits s.build.memSize s.dstAddr.toNat m →
      (s.srcAddr = s.dstAddr ∨ Apart s.srcAddr.toNat n s.dstAddr.toNat m) → s.hazard.busError = true →
      s.hazard.readHit = false → EndsInBusError .cbcEnc s s.dstAddr.toNat m) ∧
    (s.keyValid = true → Fits s.build.memSize s.srcAddr.toNat n →
      Fits s.build.memSize s.dstAddr.toNat m →
      (s.srcAddr = s.dstAddr ∨ Apart s.srcAddr.toNat n s.dstAddr.toNat m) → Undisturbed s →
      ∃ t, exec .cbcEnc s = .next t ∧
        t = ended 0 { s with mem := t.mem, outLen := t.outLen, freeIx := t.freeIx } ∧
        (m < 2 ^ 32 → t.outLen.toNat = m ∧ t.freeIx = s.freeIx) ∧
        t.mem.readBytes s.dstAddr.toNat m =
          cbcEncrypt s.cipher s.build.orient (ivBlock s) (s.mem.readBytes s.srcAddr.toNat n) ∧
        ∀ a, ¬(s.dstAddr.toNat ≤ a ∧ a < s.dstAddr.toNat + m) → t.mem.read a = s.mem.read a)

/-- R352: each block of the chained decryption, which is `D` of the ciphertext block exclusive-or the
ciphertext block before it, or the IV before the first. R355, R353: CBC_DEC, with `m = LEN`. The errors in order, the bus error last; and on success all `m`
bytes of the chained decryption at `DST_ADDR`, `OUT_LEN` the unpadded length, and nothing else changed. -/
def Obligations.CbcDecEffect : Prop :=
  decode 0x00000014 = .ok .cbcDec ∧
  (∀ (c : Cipher) (o : Orient) (iv : Block) (x : List Byte), x.length % 16 = 0 →
    (cbcDecrypt c o iv x).length = x.length ∧
    ∀ k, 16 * k < x.length →
      blockOf (cbcDecrypt c o iv x) k = Block.xor (decrypt c o (blockOf x k))
        (if k = 0 then iv else blockOf x (k - 1))) ∧
  ∀ (s : State) (m : Nat), m = s.len.toNat →
    (s.keyValid = false → exec .cbcDec s = .next (ended 3 s)) ∧
    (s.keyValid = true → m % 16 ≠ 0 → exec .cbcDec s = .next (ended 5 s)) ∧
    (s.keyValid = true → m % 16 = 0 →
      ¬(Fits s.build.memSize s.srcAddr.toNat m ∧ Fits s.build.memSize s.dstAddr.toNat m) →
      exec .cbcDec s = .next (ended 10 s)) ∧
    (s.keyValid = true → m % 16 = 0 → Fits s.build.memSize s.srcAddr.toNat m →
      Fits s.build.memSize s.dstAddr.toNat m → s.srcAddr ≠ s.dstAddr →
      ¬Apart s.srcAddr.toNat m s.dstAddr.toNat m → exec .cbcDec s = .next (ended 11 s)) ∧
    (s.keyValid = true → m % 16 = 0 → Fits s.build.memSize s.srcAddr.toNat m →
      Fits s.build.memSize s.dstAddr.toNat m →
      (s.srcAddr = s.dstAddr ∨ Apart s.srcAddr.toNat m s.dstAddr.toNat m) → s.hazard.busError = true →
      s.hazard.readHit = false → 0 < m →
      EndsInBusError .cbcDec s s.dstAddr.toNat m) ∧
    (s.keyValid = true → m % 16 = 0 → Fits s.build.memSize s.srcAddr.toNat m →
      Fits s.build.memSize s.dstAddr.toNat m →
      (s.srcAddr = s.dstAddr ∨ Apart s.srcAddr.toNat m s.dstAddr.toNat m) → Undisturbed s →
      ∃ t out, exec .cbcDec s = .next t ∧
        t = ended 0 { s with mem := t.mem, outLen := t.outLen, freeIx := t.freeIx } ∧
        out = cbcDecrypt s.cipher s.build.orient (ivBlock s) (s.mem.readBytes s.srcAddr.toNat m) ∧
        t.mem.readBytes s.dstAddr.toNat m = out ∧
        (∀ a, ¬(s.dstAddr.toNat ≤ a ∧ a < s.dstAddr.toNat + m) → t.mem.read a = s.mem.read a) ∧
        (m = 0 → t.outLen = 0) ∧
        (0 < m → 1 ≤ (out.getD (m - 1) 0).toNat → (out.getD (m - 1) 0).toNat ≤ m →
          t.outLen.toNat = m - (out.getD (m - 1) 0).toNat) ∧
        (0 < m → ¬(1 ≤ (out.getD (m - 1) 0).toNat ∧ (out.getD (m - 1) 0).toNat ≤ m) →
          (s.build.unpadPolicy = .zero → t.outLen = 0) ∧ t.outLen.toNat ≤ m))

/-- R406, R401: EMBED, with `W`, `H`, `C` of the image registers and `P = LEN`. The errors in order, the bus
error last; and on success the embedded image at `DST_ADDR`, `OUT_LEN = W*H*C`, and nothing else changed.
The bit position is `BITPOS`, read as a signed number, clamped to `[0, 7]`. -/
def Obligations.EmbedEffect : Prop :=
  decode 0x00000020 = .ok .embed ∧
  (∀ w : Word, (w.toInt < 0 → clampBitPos w = 0) ∧ (7 < w.toInt → clampBitPos w = 7) ∧
    (0 ≤ w.toInt → w.toInt ≤ 7 → (clampBitPos w : Int) = w.toInt)) ∧
  ∀ (s : State) (px sz p : Nat), px = s.imgW.toNat * s.imgH.toNat → sz = px * s.imgC.toNat →
    p = s.len.toNat →
    (s.imgC.toNat < 3 → exec .embed s = .next (ended 8 s)) ∧
    (3 ≤ s.imgC.toNat → s.imgW = 0 ∨ s.imgH = 0 → exec .embed s = .next (ended 9 s)) ∧
    (3 ≤ s.imgC.toNat → 0 < px → p = 0 → exec .embed s = .next (ended 6 s)) ∧
    (3 ≤ s.imgC.toNat → 0 < px → 0 < p → px < 3 * p → exec .embed s = .next (ended 7 s)) ∧
    (3 ≤ s.imgC.toNat → 0 < px → 0 < p → 3 * p ≤ px →
      ¬(Fits s.build.memSize s.srcAddr.toNat sz ∧ Fits s.build.memSize s.auxAddr.toNat p ∧
        Fits s.build.memSize s.dstAddr.toNat sz) → exec .embed s = .next (ended 10 s)) ∧
    (3 ≤ s.imgC.toNat → 0 < px → 0 < p → 3 * p ≤ px → Fits s.build.memSize s.srcAddr.toNat sz →
      Fits s.build.memSize s.auxAddr.toNat p → Fits s.build.memSize s.dstAddr.toNat sz →
      ¬(Apart s.srcAddr.toNat sz s.dstAddr.toNat sz ∧ Apart s.auxAddr.toNat p s.dstAddr.toNat sz) →
      exec .embed s = .next (ended 11 s)) ∧
    (3 ≤ s.imgC.toNat → 0 < px → 0 < p → 3 * p ≤ px → Fits s.build.memSize s.srcAddr.toNat sz →
      Fits s.build.memSize s.auxAddr.toNat p → Fits s.build.memSize s.dstAddr.toNat sz →
      Apart s.srcAddr.toNat sz s.dstAddr.toNat sz → Apart s.auxAddr.toNat p s.dstAddr.toNat sz →
      s.build.memSize ≤ 2 ^ 32 → s.hazard.busError = true →
      s.hazard.readHit = false → EndsInBusError .embed s s.dstAddr.toNat sz) ∧
    (3 ≤ s.imgC.toNat → 0 < px → 0 < p → 3 * p ≤ px → Fits s.build.memSize s.srcAddr.toNat sz →
      Fits s.build.memSize s.auxAddr.toNat p → Fits s.build.memSize s.dstAddr.toNat sz →
      Apart s.srcAddr.toNat sz s.dstAddr.toNat sz → Apart s.auxAddr.toNat p s.dstAddr.toNat sz →
      s.build.memSize ≤ 2 ^ 32 → Undisturbed s →
      ∃ t, exec .embed s = .next t ∧
        t = ended 0 { s with mem := t.mem, outLen := BitVec.ofNat 32 sz } ∧ sz < 2 ^ 32 ∧
        t.mem.readBytes s.dstAddr.toNat sz =
          embedImage (s.mem.readBytes s.srcAddr.toNat sz) s.imgC.toNat
            (s.mem.readBytes s.auxAddr.toNat p) (clampBitPos s.bitpos) ∧
        ∀ a, ¬(s.dstAddr.toNat ≤ a ∧ a < s.dstAddr.toNat + sz) → t.mem.read a = s.mem.read a)

/-- R411: EXTRACT. The errors in order, the bus error last, on a write buffer of `min(MAX_EXTRACT, floor(W*H
/ 3))` bytes; and on success the recovered characters at `DST_ADDR`, at most that many, their number in
`OUT_LEN`, and nothing else changed. -/
def Obligations.ExtractEffect : Prop :=
  decode 0x00000021 = .ok .extract ∧
  ∀ (s : State) (px sz room : Nat), px = s.imgW.toNat * s.imgH.toNat → sz = px * s.imgC.toNat →
    room = min s.maxExtract.toNat (px / 3) →
    (s.imgC.toNat < 3 → exec .extract s = .next (ended 8 s)) ∧
    (3 ≤ s.imgC.toNat → s.imgW = 0 ∨ s.imgH = 0 → exec .extract s = .next (ended 9 s)) ∧
    (3 ≤ s.imgC.toNat → 0 < px →
      ¬(Fits s.build.memSize s.srcAddr.toNat sz ∧ Fits s.build.memSize s.dstAddr.toNat room) →
      exec .extract s = .next (ended 10 s)) ∧
    (3 ≤ s.imgC.toNat → 0 < px → Fits s.build.memSize s.srcAddr.toNat sz →
      Fits s.build.memSize s.dstAddr.toNat room → ¬Apart s.srcAddr.toNat sz s.dstAddr.toNat room →
      exec .extract s = .next (ended 11 s)) ∧
    (3 ≤ s.imgC.toNat → 0 < px → Fits s.build.memSize s.srcAddr.toNat sz →
      Fits s.build.memSize s.dstAddr.toNat room → Apart s.srcAddr.toNat sz s.dstAddr.toNat room →
      s.hazard.busError = true →
      s.hazard.readHit = false → EndsInBusError .extract s s.dstAddr.toNat room) ∧
    (3 ≤ s.imgC.toNat → 0 < px → Fits s.build.memSize s.srcAddr.toNat sz →
      Fits s.build.memSize s.dstAddr.toNat room → Apart s.srcAddr.toNat sz s.dstAddr.toNat room →
      Undisturbed s →
      ∃ t out, exec .extract s = .next t ∧
        out = extractImage s.build (s.mem.readBytes s.srcAddr.toNat sz) px s.imgC.toNat
          (clampBitPos s.bitpos) s.maxExtract.toNat ∧
        out.length ≤ room ∧
        t = ended 0 { s with mem := t.mem, outLen := BitVec.ofNat 32 out.length } ∧
        t.mem.readBytes s.dstAddr.toNat out.length = out ∧
        ∀ a, ¬(s.dstAddr.toNat ≤ a ∧ a < s.dstAddr.toNat + out.length) →
          t.mem.read a = s.mem.read a)

/-- R455: NOISE, with `N = NOISE_MILLI`, `A = N div 1000`, `T = 24 * LEN`. The errors in order, the bus
error last; and on success the perturbed image at `DST_ADDR`, `OUT_LEN = W*H*C`, and nothing else changed.
Every draw is in its range (R452). -/
def Obligations.NoiseEffect : Prop :=
  decode 0x00000030 = .ok .noise ∧
  (∀ (bld : Build) (seed : Word) (k n : Nat), 0 < n → rng bld seed k n < n) ∧
  ∀ (s : State) (px sz : Nat), px = s.imgW.toNat * s.imgH.toNat → sz = px * s.imgC.toNat →
    (s.imgC.toNat < 3 → exec .noise s = .next (ended 8 s)) ∧
    (3 ≤ s.imgC.toNat → s.imgW = 0 ∨ s.imgH = 0 → exec .noise s = .next (ended 9 s)) ∧
    (3 ≤ s.imgC.toNat → 0 < px →
      ¬(Fits s.build.memSize s.srcAddr.toNat sz ∧ Fits s.build.memSize s.dstAddr.toNat sz) →
      exec .noise s = .next (ended 10 s)) ∧
    (3 ≤ s.imgC.toNat → 0 < px → Fits s.build.memSize s.srcAddr.toNat sz →
      Fits s.build.memSize s.dstAddr.toNat sz → ¬Apart s.srcAddr.toNat sz s.dstAddr.toNat sz →
      exec .noise s = .next (ended 11 s)) ∧
    (3 ≤ s.imgC.toNat → 0 < px → Fits s.build.memSize s.srcAddr.toNat sz →
      Fits s.build.memSize s.dstAddr.toNat sz → Apart s.srcAddr.toNat sz s.dstAddr.toNat sz →
      s.build.memSize ≤ 2 ^ 32 → s.hazard.busError = true →
      s.hazard.readHit = false → EndsInBusError .noise s s.dstAddr.toNat sz) ∧
    (3 ≤ s.imgC.toNat → 0 < px → Fits s.build.memSize s.srcAddr.toNat sz →
      Fits s.build.memSize s.dstAddr.toNat sz → Apart s.srcAddr.toNat sz s.dstAddr.toNat sz →
      s.build.memSize ≤ 2 ^ 32 → Undisturbed s →
      ∃ t, exec .noise s = .next t ∧
        t = ended 0 { s with mem := t.mem, outLen := BitVec.ofNat 32 sz } ∧ sz < 2 ^ 32 ∧
        t.mem.readBytes s.dstAddr.toNat sz =
          noiseImage (rng s.build s.rngSeed) (s.mem.readBytes s.srcAddr.toNat sz) s.imgW.toNat
            s.imgH.toNat s.imgC.toNat s.noiseMilli.toNat (s.noiseMilli.toNat / 1000)
            (s.len.toNat * 24) ∧
        ∀ a, ¬(s.dstAddr.toNat ≤ a ∧ a < s.dstAddr.toNat + sz) → t.mem.read a = s.mem.read a)

/-! ### Laws of the field, the cipher, the chain, the codec and the noise -/

/-- R200: bit `k` of the product is the sum over `i + j = k` of the products of the operands' bits, and
bit 15 is 0. -/
def Obligations.ClmulIsPolynomialProduct : Prop :=
  ∀ a b : Byte,
    (∀ k, k < 15 → (clmul a b).getLsbD k =
      (List.range (k + 1)).foldl (fun r i => r ^^ (a.getLsbD i && b.getLsbD (k - i))) false) ∧
    (clmul a b).getLsbD 15 = false

/-- R201: `reduce p` is the remainder of `p` modulo 0x11B, and the only byte that is one. -/
def Obligations.ReduceIsTheRemainder : Prop :=
  ∀ (p : Half) (r : Byte), reduce p = r ↔
    ∃ q : Byte, p = (List.range 8).foldl
      (fun x k => if q.getLsbD k then x ^^^ ((0x11B : Half) <<< k) else x) (r.setWidth 16)

/-- R209: the arithmetic laws of the field functions. -/
def Obligations.FieldLaws : Prop :=
  (∀ a b, clmul a b = clmul b a) ∧ (∀ a b, fmul a b = fmul b a) ∧
  (∀ a b c, fmul a (fmul b c) = fmul (fmul a b) c) ∧
  (∀ a b c, fmul a (b ^^^ c) = fmul a b ^^^ fmul a c) ∧
  (∀ a b c, clmul a (b ^^^ c) = clmul a b ^^^ clmul a c) ∧
  (∀ a, fmul a 1 = a) ∧ (∀ a, fmul a 0 = 0) ∧
  (∀ a, a ≠ 0 → fmul a (inv a) = 1) ∧ fmul 0 (inv 0) = 0 ∧ (∀ a, inv (inv a) = a) ∧
  (∀ p : Byte, reduce (p.setWidth 16) = p) ∧
  ∀ p q : Half, reduce (p ^^^ q) = reduce p ^^^ reduce q

/-- R203, R204: xtime is the left shift, exclusive-or 0x1B exactly when the high bit was set, and it is the
product with 0x02; a nonzero byte has exactly one inverse, which `inv` returns, and `inv 0` is 0. -/
def Obligations.XtimeAndInverse : Prop :=
  (∀ a : Byte, xtime a = (if a.getLsbD 7 then (a <<< 1) ^^^ 0x1B else a <<< 1) ∧ xtime a = fmul a 0x02) ∧
  inv 0 = 0 ∧ ∀ a i : Byte, a ≠ 0 → (fmul a i = 1 ↔ i = inv a)

/-- R205, R206, R207: bit `i` of the affine step; the default parameters and their rotation form; that in a
legal build the step is injective; and that a build with a singular matrix is refused. The clauses on the
default rows, the constant and the rotation form are PRESUMED (notes/assumptions/21.md): R206 marks them as
general knowledge, not in source. -/
def Obligations.AffineStepBits : Prop :=
  (∀ (bld : Build) (b : Byte) (i : Fin 8), (affine bld b).getLsbD i.val =
    ((List.range 8).foldl (fun r j => r ^^ ((bld.affineRow[i]).getLsbD j && b.getLsbD j)) false ^^
      bld.affineConst.getLsbD i.val)) ∧
  (∀ b : Byte, affine Build.default b =
    b ^^^ b.rotateLeft 1 ^^^ b.rotateLeft 2 ^^^ b.rotateLeft 3 ^^^ b.rotateLeft 4 ^^^ 0x63) ∧
  Build.default.affineRow = #v[0xF1, 0xE3, 0xC7, 0x8F, 0x1F, 0x3E, 0x7C, 0xF8] ∧
  Build.default.affineConst = 0x63 ∧ Build.default.wellFormed = true ∧
  (∀ (bld : Build) (b c : Byte), bld.wellFormed = true → affine bld b = affine bld c → b = c) ∧
  ∀ (s : State) (b c : Byte), b ≠ c → affine s.build b = affine s.build c →
    step s = .refused .illegalBuild

/-- R280, R282: the column mixing, as a running total and in matrix form; the inverse mixing; and that each
undoes the other. That the running total pairs `k` with `k + 1` is PRESUMED (notes/assumptions/21.md): R280
marks it as general knowledge, not in source. -/
def Obligations.MixingIsInvertible : Prop :=
  (∀ (a : Fin 4 → Byte) (k : Fin 4),
    mixVec a k = a k ^^^ (a 0 ^^^ a 1 ^^^ a 2 ^^^ a 3) ^^^ xtime (a k ^^^ a (k + 1)) ∧
    mixVec a k = fmul 0x02 (a k) ^^^ fmul 0x03 (a (k + 1)) ^^^ a (k + 2) ^^^ a (k + 3) ∧
    invMixVec a k =
      fmul 0x0E (a k) ^^^ fmul 0x0B (a (k + 1)) ^^^ fmul 0x0D (a (k + 2)) ^^^ fmul 0x09 (a (k + 3))) ∧
  (∀ a : Fin 4 → Byte, invMixVec (mixVec a) = a) ∧ ∀ a : Fin 4 → Byte, mixVec (invMixVec a) = a

/-- R286: in every legal build, for every supported key and every block, decryption undoes encryption and
encryption undoes decryption. -/
def Obligations.BlockRoundTrip : Prop :=
  ∀ (bld : Build) (key : List Byte) (x : Block), bld.wellFormed = true →
    key.length = 16 ∨ key.length = 24 ∨ key.length = 32 →
    decrypt (construct bld key) bld.orient (encrypt (construct bld key) bld.orient x) = x ∧
    encrypt (construct bld key) bld.orient (decrypt (construct bld key) bld.orient x) = x

/-- R356: chained encryption then decryption gives the padded plaintext, whose unpadded length is the
plaintext's; and so CBC_ENC then CBC_DEC with the same cipher and IV, on the bytes and the length that
CBC_ENC left, returns the plaintext in the first `OUT_LEN` bytes. -/
def Obligations.CbcRoundTrip : Prop :=
  (∀ (bld : Build) (key : List Byte) (iv : Block) (p : List Byte), bld.wellFormed = true →
    key.length = 16 ∨ key.length = 24 ∨ key.length = 32 →
    cbcDecrypt (construct bld key) bld.orient iv (cbcEncrypt (construct bld key) bld.orient iv p) =
      pad p) ∧
  (∀ (pol : UnpadPolicy) (free : Nat) (p : List Byte), unpadLen pol free (pad p) = p.length) ∧
  ∀ s t u : State, s.build.wellFormed = true → CipherInstalled s → Undisturbed s →
    exec .cbcEnc s = .next t → t.err = 0 → s.len.toNat + 16 < 2 ^ 32 →
    u.build = s.build → u.cipher = s.cipher → u.keyValid = true → u.iv = s.iv → Undisturbed u →
    u.len = t.outLen →
    u.mem.readBytes u.srcAddr.toNat u.len.toNat = t.mem.readBytes s.dstAddr.toNat t.outLen.toNat →
    Fits u.build.memSize u.srcAddr.toNat u.len.toNat →
    Fits u.build.memSize u.dstAddr.toNat u.len.toNat →
    (u.srcAddr = u.dstAddr ∨
      Apart u.srcAddr.toNat u.len.toNat u.dstAddr.toNat u.len.toNat) →
    ∃ w, exec .cbcDec u = .next w ∧ w.err = 0 ∧ w.outLen = s.len ∧
      w.mem.readBytes u.dstAddr.toNat w.outLen.toNat = s.mem.readBytes s.srcAddr.toNat s.len.toNat

/-- R407, R408: bit `q` of channel value `a` of the embedded image. At the chosen bit position of the
carrier positions of the payload's groups it is the carried bit: a data bit, most significant first, at
positions 0 to 7, and at position 8 whether more bytes follow. Every other bit is the source image's. And
embedding the same payload again changes nothing. -/
def Obligations.EmbedChangesOnlyCarriedBits : Prop :=
  ∀ (img pay : List Byte) (px c p : Nat), 3 ≤ c → img.length = px * c → 3 * pay.length ≤ px → p < 8 →
    (embedImage img c pay p).length = img.length ∧
    (∀ g k, g < pay.length → k < 8 →
      ((embedImage img c pay p).getD ((3 * g + k / 3) * c + k % 3) 0).getLsbD p =
        (pay.getD g 0).getLsbD (7 - k)) ∧
    (∀ g, g < pay.length →
      ((embedImage img c pay p).getD ((3 * g + 2) * c + 2) 0).getLsbD p =
        decide (g + 1 < pay.length)) ∧
    (∀ a q, a < img.length → q < 8 →
      (q ≠ p ∨ ∀ g k, g < pay.length → k ≤ 8 → a ≠ (3 * g + k / 3) * c + k % 3) →
      ((embedImage img c pay p).getD a 0).getLsbD q = (img.getD a 0).getLsbD q) ∧
    embedImage (embedImage img c pay p) c pay p = embedImage img c pay p

/-- R413: EXTRACT, on the image that EMBED left and with the same clamped bit position, gives the payload
back, if the cutoff allows its length and every byte of it is a valid character. -/
def Obligations.EmbedExtractRoundTrip : Prop :=
  ∀ s t u : State, Undisturbed s → exec .embed s = .next t → t.err = 0 → Undisturbed u →
    u.imgW = s.imgW → u.imgH = s.imgH → u.imgC = s.imgC →
    clampBitPos u.bitpos = clampBitPos s.bitpos → s.len.toNat ≤ u.maxExtract.toNat →
    (∀ b ∈ s.mem.readBytes s.auxAddr.toNat s.len.toNat, b ∉ u.build.invalidBytes) →
    u.mem.readBytes u.srcAddr.toNat (imgBytes u) = t.mem.readBytes s.dstAddr.toNat (imgBytes s) →
    Fits u.build.memSize u.srcAddr.toNat (imgBytes u) →
    Fits u.build.memSize u.dstAddr.toNat (extractRoom u) →
    Apart u.srcAddr.toNat (imgBytes u) u.dstAddr.toNat (extractRoom u) →
    ∃ w, exec .extract u = .next w ∧ w.err = 0 ∧ w.outLen = s.len ∧
      w.mem.readBytes u.dstAddr.toNat w.outLen.toNat =
        s.mem.readBytes s.auxAddr.toNat s.len.toNat

/-- R412: the scan ends for exactly one of its reasons: a clear marker, whose byte is the last one; else
the cutoff; else exhaustion of the image; else an invalid byte, which is not included. Every character
before the last was read from its group with the marker set. R410: the bit read at position `k` of group `g`
is bit `p` of channel `k mod 3` of pixel `3g + k div 3`, and the byte read from a group has the bits of its
positions 0 to 7, most significant first. -/
def Obligations.ExtractStopsForOneReason : Prop :=
  (∀ (img : List Byte) (c p g k : Nat),
    readCarrier img c p g k = (img.getD ((3 * g + k / 3) * c + k % 3) 0).getLsbD p ∧
    (k < 8 → (readGroup img c p g).getLsbD (7 - k) = readCarrier img c p g k)) ∧
  ∀ (bld : Build) (img : List Byte) (px c p max : Nat) (out : List Byte),
    out = extractImage bld img px c p max →
    out.length ≤ max ∧ 3 * out.length ≤ px ∧
    (∀ g, g < out.length → out.getD g 0 = readGroup img c p g ∧ out.getD g 0 ∉ bld.invalidBytes) ∧
    (∀ g, g + 1 < out.length → readCarrier img c p g 8 = true) ∧
    ((0 < out.length ∧ readCarrier img c p (out.length - 1) 8 = false) ∨
      ((out.length = 0 ∨ readCarrier img c p (out.length - 1) 8 = true) ∧
        (out.length = max ∨
          (out.length < max ∧ (px < 3 * out.length + 3 ∨
            (3 * out.length + 3 ≤ px ∧ readGroup img c p out.length ∈ bld.invalidBytes))))))

/-- R453, R456, R454: the image is that of `N` attempts in order, each on the image the last one left: it
draws a column, then a row, and only for an unprotected pixel a delta, which it adds to channels 0, 1 and 2
of that pixel with a clamp. R458, R459: so noise leaves every channel of every pixel of the protected region
and every channel from the fourth on, and changes no other channel by more than `N*A`. -/
def Obligations.NoiseProtectsAndClamps : Prop :=
  (∀ (v : Byte) (d : Int), ((addClamped v d).toNat : Int) = max 0 (min 255 ((v.toNat : Int) + d))) ∧
  ∀ (draw : Nat → Nat → Nat) (img : List Byte) (w h c n a t : Nat),
    (∀ k m, 0 < m → draw k m < m) → 3 ≤ c → 0 < w → 0 < h → img.length = w * h * c →
    (∀ i ch, ch < c → (i < t ∨ 3 ≤ ch) →
      (noiseImage draw img w h c n a t).getD (i * c + ch) 0 = img.getD (i * c + ch) 0) ∧
    (∀ x, ((noiseImage draw img w h c n a t).getD x 0).toNat ≤ (img.getD x 0).toNat + n * a ∧
      (img.getD x 0).toNat ≤ ((noiseImage draw img w h c n a t).getD x 0).toNat + n * a) ∧
    ∃ st : Nat → Nat × List Byte, st 0 = (0, img) ∧
      noiseImage draw img w h c n a t = (st n).2 ∧
      ∀ m k out i, m < n → st m = (k, out) → i = draw (k + 1) h * w + draw k w →
        (i < t → st (m + 1) = (k + 2, out)) ∧
        (t ≤ i → ∃ out', st (m + 1) = (k + 3, out') ∧ out'.length = out.length ∧
          ∀ x, x < out.length →
            (x / c = i → x % c < 3 → ((out'.getD x 0).toNat : Int) =
              max 0 (min 255 ((out.getD x 0).toNat + ((draw (k + 2) (2 * a + 1) : Int) - a)))) ∧
            (x / c ≠ i ∨ 3 ≤ x % c → out'.getD x 0 = out.getD x 0))

/-! ### The whole machine -/

/-- R36, R39, R34, R40: what a completed command leaves alone. Every operand register, both enables,
`WBUSY_IP`, `CTRL`, the reset input, the inputs to come, the build and the port's answers are kept by every
command; `RES` is written only by the field and lookup commands, `OUT_LEN` and the data space only by the
memory commands, the cipher instance only by KEY_INIT. -/
def Obligations.CommandFrame : Prop :=
  ∀ (i : Instr) (s t : State), exec i s = .next t →
    t = { s with
          busy := false, done := true, err := t.err, doneIp := true, hazard := {},
          res := t.res, outLen := t.outLen, mem := t.mem, cipher := t.cipher, keyValid := t.keyValid,
          freeIx := t.freeIx } ∧
    (writesResult i = false → t.res = s.res) ∧
    (accessesMemory i = false → t.outLen = s.outLen ∧ t.mem = s.mem ∧ t.freeIx = s.freeIx) ∧
    (i ≠ .keyInit → t.cipher = s.cipher ∧ t.keyValid = s.keyValid)

/-- R106: a command writes only within its write buffers, in every state, disturbed or not, and in error
or not; and in range, so that it never writes a byte that does not exist. -/
def Obligations.CommandsWriteOnlyTheirBuffers : Prop :=
  ∀ (i : Instr) (s t : State), exec i s = .next t → ∀ a, t.mem.read a ≠ s.mem.read a →
    ∃ b ∈ writeBuffers i s, b.start ≤ a ∧ a < b.start + b.size ∧ a < s.build.memSize

/-- R108: the results of a command are a function of its registers and of the bytes of its read buffers
alone: two data spaces that agree there give the same registers and the same written bytes (both runs
taking the same free values, notes/assumptions/9.md). -/
def Obligations.ResultsDependOnlyOnReadBuffers : Prop :=
  ∀ (i : Instr) (s t u : State) (m : Memory),
    (∀ b ∈ readBuffers i s, ∀ a, b.start ≤ a → a < b.start + b.size → m.read a = s.mem.read a) →
    exec i s = .next t → exec i { s with mem := m } = .next u →
    u = { t with mem := u.mem } ∧
    ∀ a, u.mem.read a = t.mem.read a ∨
      (t.mem.read a = s.mem.read a ∧ u.mem.read a = m.read a)

/-- R164: while a command is in progress, a register access can change nothing but the port's answer, the
interrupt enables and the pending bits. -/
def Obligations.BusyFreezesTheBlock : Prop :=
  ∀ (s : State) (a : PortAccess), s.busy = true → ∃ t, t = portAccess a s ∧
    t = { s with
          portData := t.portData, portError := t.portError, doneIe := t.doneIe, wbusyIe := t.wbusyIe,
          doneIp := t.doneIp, wbusyIp := t.wbusyIp }

/-- R113: another agent's write to an idle block's data space stores the byte and changes nothing else, and
its read returns the byte, so that what the host placed before a command is in memory when the command is
accepted. That a write stores its byte and does nothing else, and that a read answers it, is the model's
choice, plain memory (R109, notes/assumptions/19.md). R114: while a command is in progress a read of a byte
of its write buffers answers a free value (notes/assumptions/9.md), and any other byte reads as it stands;
that only a command whose checks pass owns buffers is log entry 10. -/
def Obligations.AgentsSeePlainMemoryWhenIdle : Prop :=
  ∀ (s : State) (a : Word) (rest : List Event), s.build.wellFormed = true →
    a.toNat < s.build.memSize →
    (s.busy = false →
      (∀ v, s.inbox = .agentWrite a v :: rest → ∃ t, step s = .next t ∧
        t = { s with mem := t.mem, inbox := rest } ∧
        ∀ x, t.mem.read x = if x = a.toNat then v else s.mem.read x) ∧
      (s.inbox = .agentRead a :: rest →
        step s = .next { s with agentData := s.mem.read a.toNat, inbox := rest })) ∧
    (s.busy = true → s.inbox = .agentRead a :: rest →
      (∀ i, decode s.ctrl = .ok i → firstError i s = none →
        inBuffers a.toNat (writeBuffers i s) = true →
        step s = .next
          { s with
            agentData := Config.freeByte s.freeIx, freeIx := s.freeIx + 1, inbox := rest }) ∧
      ((∀ i, decode s.ctrl = .ok i → firstError i s = none →
          inBuffers a.toNat (writeBuffers i s) = false) →
        step s = .next { s with agentData := s.mem.read a.toNat, inbox := rest }))

/-- R40: the cipher instance and `KEY_VALID` change only when a KEY_INIT of a supported length completes,
which installs both, or when reset is asserted, which clears the flag; and while there is no instance the
commands that need one end with `ERR_NOKEY`. -/
def Obligations.InstanceChangesOnlyByKeyInitOrReset : Prop :=
  (∀ s t : State, step s = .next t →
    (t.cipher = s.cipher ∧ t.keyValid = s.keyValid) ∨
    (s.busy = true ∧ decode s.ctrl = .ok .keyInit ∧
      (s.keyLen = 16 ∨ s.keyLen = 24 ∨ s.keyLen = 32) ∧ t.keyValid = true ∧
      t.cipher = construct s.build (keyBytes s)) ∨
    (∃ rest, s.inbox = .resetAssert :: rest) ∧ t.keyValid = false) ∧
  ∀ (i : Instr) (s : State), s.keyValid = false →
    i ∈ [Instr.sboxLookup, .invsboxLookup, .encBlock, .decBlock, .cbcEnc, .cbcDec] →
    exec i s = .next (ended 3 s)

/-- A step never changes the build's parameters, and it consumes exactly the input it handles. -/
def Obligations.BuildIsFixedAndInputsAreConsumed : Prop :=
  ∀ s t : State, step s = .next t → t.build = s.build ∧ t.inbox = s.inbox.tail

/-- The invariant of `Inv` holds right after reset. It covers values that the model chose for the data
space and the tables (notes/assumptions/3.md, notes/assumptions/5.md). -/
def Obligations.InvariantHoldsAtReset : Prop := Inv State.reset

/-- Every step keeps the invariant of `Inv`: the data space stays canonical and lists only bytes that
exist, `ERR` holds one of the codes of rule R521, `DONE` and `ERR` are 0 while busy, an idle block has
nothing disturbed, a valid key has its tables, and reset holds the registers. -/
def Obligations.StepKeepsInvariant : Prop :=
  ∀ s t : State, Inv s → step s = .next t → Inv t
end

