-- ==== Sys2Proof/Laws/Functions.lean ====
section
/-!
SUPPORT. The small lemmas of the pure functions: blocks read by row and column (spec/41_block_cipher.md
rule R275) and block by block (spec/42_chain_mode.md rules R351, R352), and the lengths of what the commands
write (spec/20_memory.md rule R106).
-/

namespace Sys2Proof.Machine

/-- A default read within the bounds is the plain read. -/
theorem vector_getD_of_lt {α : Type} {n : Nat} (v : Vector α n) (k : Nat) (h : k < n) (d : α) :
    v.getD k d = v[k] := by
  unfold Vector.getD
  simp [h]

/-- A table entry as a default read. -/
theorem lookup_eq_getD (t : Vector Byte 256) (x : Byte) : lookup t x = t.getD x.toNat 0 :=
  (vector_getD_of_lt t x.toNat x.isLt 0).symm

@[simp] theorem Block.at_grid (f : Fin 4 → Fin 4 → Byte) (i j : Fin 4) :
    (Block.grid f).at i j = f i j := by
  simp [Block.at, Block.grid, show (4 * i.val + j.val) / 4 = i.val by omega,
    show (4 * i.val + j.val) % 4 = j.val by omega]

/-- Two blocks with the same rows and columns are equal. -/
theorem Block.ext_at (s t : Block) (h : ∀ i j, s.at i j = t.at i j) : s = t := by
  refine Vector.ext fun k hk => ?_
  have := h ⟨k / 4, by omega⟩ ⟨k % 4, by omega⟩
  simpa [Block.at, show 4 * (k / 4) + k % 4 = k by omega] using this

@[simp] theorem Block.at_xor (a b : Block) (i j : Fin 4) :
    (Block.xor a b).at i j = a.at i j ^^^ b.at i j := by
  simp [Block.at, Block.xor]

@[simp] theorem Block.at_map (f : Byte → Byte) (s : Block) (i j : Fin 4) :
    Block.at (s.map f) i j = f (s.at i j) := by
  simp [Block.at]

@[simp] theorem Block.length_store (s : Block) : s.store.length = 16 := by
  simp [Block.store]

/-- Loading a stored block gives it back (R275). -/
@[simp] theorem Block.load_store (s : Block) : Block.load s.store = s :=
  Vector.ext fun k hk => by simp [Block.load, Block.store, List.getD]

/-- Storing a loaded list of 16 bytes gives it back (R275). -/
theorem Block.store_load (bs : List Byte) (h : bs.length = 16) : (Block.load bs).store = bs := by
  refine List.ext_getElem (by simp [h]) fun k h1 h2 => ?_
  simp [Block.load, Block.store, List.getD, h2]

/-! The byte at each row and column after each round function (R276 to R283). -/

@[simp] theorem Block.at_load (bs : List Byte) (i j : Fin 4) :
    (Block.load bs).at i j = bs.getD (4 * i.val + j.val) 0 := by
  simp [Block.at, Block.load]

@[simp] theorem at_addRoundKey (c : Cipher) (r : Nat) (b : Block) (i j : Fin 4) :
    (addRoundKey c r b).at i j =
      b.at i j ^^^ Block.at (c.rk.getD r (Vector.replicate 16 0)) i j := Block.at_xor _ _ i j

@[simp] theorem at_subBytes (c : Cipher) (b : Block) (i j : Fin 4) :
    (subBytes c b).at i j = lookup c.sbox (b.at i j) := Block.at_map _ _ i j

@[simp] theorem at_invSubBytes (c : Cipher) (b : Block) (i j : Fin 4) :
    (invSubBytes c b).at i j = lookup c.invSbox (b.at i j) := Block.at_map _ _ i j

@[simp] theorem at_shiftRows_rows (b : Block) (i j : Fin 4) :
    (shiftRows .rows b).at i j = b.at i (j + i) := by
  simp only [shiftRows, Block.at_grid]

@[simp] theorem at_shiftRows_columns (b : Block) (i j : Fin 4) :
    (shiftRows .columns b).at i j = b.at (i + j) j := by
  simp only [shiftRows, Block.at_grid]

@[simp] theorem at_invShiftRows_rows (b : Block) (i j : Fin 4) :
    (invShiftRows .rows b).at i j = b.at i (j - i) := by
  simp only [invShiftRows, Block.at_grid]

@[simp] theorem at_invShiftRows_columns (b : Block) (i j : Fin 4) :
    (invShiftRows .columns b).at i j = b.at (i - j) j := by
  simp only [invShiftRows, Block.at_grid]

@[simp] theorem at_mapVectors_rows (f : (Fin 4 → Byte) → Fin 4 → Byte) (b : Block) (i j : Fin 4) :
    (mapVectors .rows f b).at i j = f (fun r => b.at r j) i := by
  simp only [mapVectors, Block.at_grid]

@[simp] theorem at_mapVectors_columns (f : (Fin 4 → Byte) → Fin 4 → Byte) (b : Block) (i j : Fin 4) :
    (mapVectors .columns f b).at i j = f (fun k => b.at i k) j := by
  simp only [mapVectors, Block.at_grid]

/-- `pad(P)` is `L` bytes longer than `P` (R350). -/
theorem length_pad (p : List Byte) : (pad p).length = p.length + padLen p.length := by
  simp [pad]

/-- The padded length is a multiple of 16 (R350). -/
theorem length_pad_mod (p : List Byte) : (pad p).length % 16 = 0 := by
  rw [length_pad, padLen]
  omega

theorem length_cbcEncBlocks (c : Cipher) (o : Orient) (n : Nat) (prev : Block) (q : List Byte) :
    (cbcEncBlocks c o n prev q).length = 16 * n := by
  induction n generalizing prev q with
  | zero => rfl
  | succ n ih => simp [cbcEncBlocks, ih]; omega

theorem length_cbcDecBlocks (c : Cipher) (o : Orient) (n : Nat) (prev : Block) (q : List Byte) :
    (cbcDecBlocks c o n prev q).length = 16 * n := by
  induction n generalizing prev q with
  | zero => rfl
  | succ n ih => simp [cbcDecBlocks, ih]; omega

theorem length_cbcEncrypt (c : Cipher) (o : Orient) (iv : Block) (p : List Byte) :
    (cbcEncrypt c o iv p).length = p.length + padLen p.length := by
  have := length_pad_mod p
  rw [cbcEncrypt, length_cbcEncBlocks, ← length_pad]
  omega

theorem length_cbcDecrypt (c : Cipher) (o : Orient) (iv : Block) (x : List Byte)
    (h : x.length % 16 = 0) : (cbcDecrypt c o iv x).length = x.length := by
  rw [cbcDecrypt, length_cbcDecBlocks]
  omega

/-- The bit read out of a channel value is its bit `p` (R403). -/
@[simp] theorem getBit_eq_getLsbD (v : Byte) (p : Nat) : getBit v p = v.getLsbD p := by
  simp [getBit]

/-- Bit `7 - k` of an assembled byte is its data bit `k` (R402). -/
theorem getLsbD_assembleByte (f : Nat → Bool) (k : Nat) (hk : k < 8) :
    (assembleByte f).getLsbD (7 - k) = f k := by
  have key : ∀ b0 b1 b2 b3 b4 b5 b6 b7 : Bool, ∀ k : Fin 8,
      (assembleByte fun n => [b0, b1, b2, b3, b4, b5, b6, b7].getD n false).getLsbD (7 - k.val) =
        [b0, b1, b2, b3, b4, b5, b6, b7].getD k.val false := by decide +kernel
  have hf : assembleByte f =
      assembleByte fun n => [f 0, f 1, f 2, f 3, f 4, f 5, f 6, f 7].getD n false := rfl
  rw [hf, key _ _ _ _ _ _ _ _ ⟨k, hk⟩]
  interval_cases k <;> rfl

/-- Block 0 of a text that starts with a stored block is that block. -/
@[simp] theorem blockOf_store_zero (b : Block) (l : List Byte) : blockOf (b.store ++ l) 0 = b := by
  simp [blockOf]

/-- The later blocks of a text that starts with a stored block are those of the rest. -/
@[simp] theorem blockOf_store_succ (b : Block) (l : List Byte) (k : Nat) :
    blockOf (b.store ++ l) (k + 1) = blockOf l k := by
  unfold blockOf
  rw [show 16 * (k + 1) = b.store.length + 16 * k by simp; omega, List.drop_append,
    List.drop_eq_nil_of_le (by simp)]
  simp

/-- The blocks of a text without its first one. -/
theorem blockOf_drop (q : List Byte) (k : Nat) : blockOf (q.drop 16) k = blockOf q (k + 1) := by
  unfold blockOf
  rw [List.drop_drop]
  congr 3
  omega

@[simp] theorem length_embedImage (img : List Byte) (c : Nat) (pay : List Byte) (p : Nat) :
    (embedImage img c pay p).length = img.length := by
  have key : ∀ (l : List (Nat × Nat)) (out : List Byte),
      (l.foldl (fun out gk =>
        let a := cpos c gk.1 gk.2
        out.set a (setBit (img.getD a 0) p (carriedBit pay gk.1 gk.2))) out).length = out.length := by
    intro l
    induction l with
    | nil => intro out; rfl
    | cons g l ih => intro out; rw [List.foldl_cons, ih]; simp
  exact key _ _

/-- The loop never returns more characters than the cutoff allows, nor than the image has groups left
(R410, R414). -/
theorem length_extractFrom (valid : Byte → Bool) (img : List Byte) (pixels c p room g : Nat) :
    (extractFrom valid img pixels c p room g).length ≤ min room (pixels / 3 - g) := by
  induction room generalizing g with
  | zero => simp [extractFrom]
  | succ room ih =>
    have ih := ih (g + 1)
    unfold extractFrom
    split
    · simp
    · split
      · cases readCarrier img c p g 8 <;> simp only [cond_true, cond_false, List.length_cons,
          List.length_nil] <;> omega
      · simp

@[simp] theorem length_perturbPixel (c i : Nat) (d : Int) (out : List Byte) :
    (perturbPixel c i d out).length = out.length := by
  simp [perturbPixel]

/-- `n + 1` attempts are `n` attempts and one more on the image they left (R456). -/
theorem noiseAttempts_succ (draw : Nat → Nat → Nat) (w h c a t n : Nat) (st : Nat × List Byte) :
    noiseAttempts draw w h c a t (n + 1) st =
      noiseAttempt draw w h c a t (noiseAttempts draw w h c a t n st) := by
  induction n generalizing st with
  | zero => rfl
  | succ n ih => rw [noiseAttempts, ih, ← noiseAttempts]

@[simp] theorem length_noiseAttempts (draw : Nat → Nat → Nat) (w h c a t n : Nat)
    (st : Nat × List Byte) : (noiseAttempts draw w h c a t n st).2.length = st.2.length := by
  induction n generalizing st with
  | zero => rfl
  | succ n ih =>
    rw [noiseAttempts, ih, noiseAttempt]
    split <;> simp

@[simp] theorem length_noiseImage (draw : Nat → Nat → Nat) (img : List Byte) (w h c n a t : Nat) :
    (noiseImage draw img w h c n a t).length = img.length := by
  simp [noiseImage]

end Sys2Proof.Machine
end

