-- ==== Sys2Proof/Laws/Memory.lean ====
section
/-!
SUPPORT. The laws of the data space: reading after writing, and that every operation keeps the canonical
form and lists only bytes that exist (spec/20_memory.md rules R100, R103, R105).
-/

namespace Sys2Proof.Machine

@[simp] theorem Memory.read_nil (a : Nat) : Memory.read [] a = Memory.unlisted := rfl

theorem Memory.read_cons (c : Host.Cell) (m : Memory) (a : Nat) :
    Memory.read (c :: m) a = if c.1 = a then c.2 else m.read a := by
  by_cases h : c.1 = a <;> simp [Memory.read, h]

theorem Memory.read_insertCell (c : Host.Cell) (m : Memory) (a : Nat) (hm : ∀ d ∈ m, d.1 ≠ c.1) :
    (Memory.insertCell c m).read a = if c.1 = a then c.2 else m.read a := by
  induction m with
  | nil => simp [Memory.insertCell, Memory.read_cons]
  | cons d m ih =>
    have hd : d.1 ≠ c.1 := hm d (by simp)
    have ih := ih fun e he => hm e (by simp [he])
    by_cases hlt : c.1 < d.1
    · simp [Memory.insertCell, hlt, Memory.read_cons]
    · simp only [Memory.insertCell, hlt, decide_false, cond_false, Memory.read_cons, ih]
      by_cases hda : d.1 = a
      · simp [hda, show ¬c.1 = a by omega]
      · simp [hda]

theorem Memory.read_filter_self (m : Memory) (a : Nat) :
    Memory.read (m.filter fun c => c.1 != a) a = Memory.unlisted := by
  induction m with
  | nil => rfl
  | cons c m ih => by_cases h : c.1 = a <;> simp [h, Memory.read_cons, ih]

theorem Memory.read_filter_ne (m : Memory) (a b : Nat) (h : b ≠ a) :
    Memory.read (m.filter fun c => c.1 != a) b = m.read b := by
  induction m with
  | nil => rfl
  | cons c m ih =>
    by_cases hc : c.1 = a
    · simp [hc, Memory.read_cons, ih, show ¬a = b by omega]
    · simp [hc, Memory.read_cons, ih]

theorem Memory.write_unlisted (m : Memory) (a : Nat) :
    m.write a Memory.unlisted = m.filter fun c => c.1 != a := by
  simp [Memory.write]

theorem Memory.write_listed (m : Memory) (a : Nat) (v : Byte) (hv : v ≠ Memory.unlisted) :
    m.write a v = Memory.insertCell (a, v) (m.filter fun c => c.1 != a) := by
  simp [Memory.write, beq_eq_false_iff_ne.mpr hv]

/-- A read after a write: the written byte at its address, the old byte at every other. -/
theorem Memory.read_write (m : Memory) (a b : Nat) (v : Byte) :
    (m.write a v).read b = if b = a then v else m.read b := by
  have hk : ∀ d ∈ m.filter (fun c => c.1 != a), d.1 ≠ (a, v).1 := by simp
  by_cases hv : v = Memory.unlisted
  · rw [hv, Memory.write_unlisted]
    by_cases hb : b = a
    · simp [hb, Memory.read_filter_self]
    · simp [hb, Memory.read_filter_ne]
  · rw [Memory.write_listed _ _ _ hv, Memory.read_insertCell _ _ _ hk]
    by_cases hb : b = a
    · simp [hb]
    · simp [hb, Memory.read_filter_ne, show ¬a = b by omega]

/-- A read after `MemWrite`: element `i` at `a + i`, the old byte at every other address (R105). -/
theorem Memory.read_writeBytes (m : Memory) (a b : Nat) (vs : List Byte) :
    (m.writeBytes a vs).read b =
      if a ≤ b ∧ b < a + vs.length then vs.getD (b - a) 0 else m.read b := by
  induction vs generalizing m a with
  | nil => simp [Memory.writeBytes, show ¬(a ≤ b ∧ b < a) by omega]
  | cons v vs ih =>
    rw [Memory.writeBytes, ih, Memory.read_write, List.length_cons]
    by_cases h1 : a + 1 ≤ b ∧ b < a + 1 + vs.length
    · obtain ⟨k, rfl⟩ : ∃ k, b = a + 1 + k := ⟨b - (a + 1), by omega⟩
      rw [if_pos h1, if_pos (by omega), show a + 1 + k - a = k + 1 by omega,
        show a + 1 + k - (a + 1) = k by omega, List.getD_cons_succ]
    · by_cases h2 : b = a
      · subst h2
        rw [if_neg h1, if_pos rfl, if_pos (by omega), Nat.sub_self, List.getD_cons_zero]
      · rw [if_neg h1, if_neg h2, if_neg (by omega)]

/-- `MemWrite` leaves every byte outside its range. -/
theorem Memory.read_writeBytes_outside (m : Memory) (a b : Nat) (vs : List Byte)
    (h : ¬(a ≤ b ∧ b < a + vs.length)) : (m.writeBytes a vs).read b = m.read b := by
  rw [Memory.read_writeBytes, if_neg h]

@[simp] theorem Memory.length_readBytes (m : Memory) (a n : Nat) : (m.readBytes a n).length = n := by
  simp [Memory.readBytes]

theorem Memory.getD_readBytes (m : Memory) (a n i : Nat) (h : i < n) :
    (m.readBytes a n).getD i 0 = m.read (a + i) := by
  simp [Memory.readBytes, List.getD, h]

/-- Two memories that agree on a buffer give the same bytes. -/
theorem Memory.readBytes_congr (m k : Memory) (a n : Nat)
    (h : ∀ i, i < n → m.read (a + i) = k.read (a + i)) : m.readBytes a n = k.readBytes a n :=
  List.map_congr_left fun i hi => h i (List.mem_range.mp hi)

theorem Memory.mem_insertCell (c d : Host.Cell) (m : Memory) :
    d ∈ Memory.insertCell c m ↔ d = c ∨ d ∈ m := by
  induction m with
  | nil => simp [Memory.insertCell]
  | cons e m ih =>
    by_cases h : c.1 < e.1
    · simp [Memory.insertCell, h]
    · simp [Memory.insertCell, h, ih]
      tauto

theorem Memory.sorted_insertCell (c : Host.Cell) (m : Memory)
    (hs : m.Pairwise fun d e => d.1 < e.1) (hm : ∀ d ∈ m, d.1 ≠ c.1) :
    (Memory.insertCell c m).Pairwise fun d e => d.1 < e.1 := by
  induction m with
  | nil => simp [Memory.insertCell]
  | cons e m ih =>
    obtain ⟨he, hs⟩ := List.pairwise_cons.mp hs
    have hce : e.1 ≠ c.1 := hm e (by simp)
    by_cases h : c.1 < e.1
    · simp only [Memory.insertCell, h, decide_true, cond_true, List.pairwise_cons]
      refine ⟨fun d hd => ?_, he, hs⟩
      rcases List.mem_cons.mp hd with rfl | hd
      · exact h
      · exact h.trans (he d hd)
    · simp only [Memory.insertCell, h, decide_false, cond_false, List.pairwise_cons]
      refine ⟨fun d hd => ?_, ih hs fun d hd => hm d (by simp [hd])⟩
      rcases (Memory.mem_insertCell _ _ _).mp hd with rfl | hd
      · omega
      · exact he d hd

/-- Writing one byte keeps the canonical form. -/
theorem Memory.wf_write (m : Memory) (a : Nat) (v : Byte) (h : m.wf) : (m.write a v).wf := by
  have hs : (m.filter fun c => c.1 != a).Pairwise fun d e => d.1 < e.1 := h.1.filter _
  have hn : ∀ c ∈ m.filter (fun c => c.1 != a), c.2 ≠ Memory.unlisted := fun c hc =>
    h.2 c (List.mem_of_mem_filter hc)
  have hk : ∀ d ∈ m.filter (fun c => c.1 != a), d.1 ≠ (a, v).1 := by simp
  by_cases hv : v = Memory.unlisted
  · rw [hv, Memory.write_unlisted]
    exact ⟨hs, hn⟩
  · rw [Memory.write_listed _ _ _ hv]
    refine ⟨Memory.sorted_insertCell _ _ hs hk, fun c hc => ?_⟩
    rcases (Memory.mem_insertCell _ _ _).mp hc with rfl | hc
    · exact hv
    · exact hn c hc

/-- `MemWrite` keeps the canonical form. -/
theorem Memory.wf_writeBytes (m : Memory) (a : Nat) (vs : List Byte) (h : m.wf) :
    (m.writeBytes a vs).wf := by
  induction vs generalizing m a with
  | nil => exact h
  | cons v vs ih => exact ih _ _ (Memory.wf_write _ _ _ h)

/-- Writing one existing byte lists only existing bytes. -/
theorem Memory.within_write (m : Memory) (a size : Nat) (v : Byte) (h : m.within size)
    (ha : a < size) : (m.write a v).within size := by
  intro c hc
  by_cases hv : v = Memory.unlisted
  · rw [hv, Memory.write_unlisted] at hc
    exact h c (List.mem_of_mem_filter hc)
  · rw [Memory.write_listed _ _ _ hv] at hc
    rcases (Memory.mem_insertCell _ _ _).mp hc with rfl | hc
    · exact ha
    · exact h c (List.mem_of_mem_filter hc)

/-- `MemWrite` into a buffer that exists lists only existing bytes. -/
theorem Memory.within_writeBytes (m : Memory) (a size : Nat) (vs : List Byte) (h : m.within size)
    (ha : vs.length = 0 ∨ a + vs.length ≤ size) : (m.writeBytes a vs).within size := by
  induction vs generalizing m a with
  | nil => exact h
  | cons v vs ih =>
    simp only [List.length_cons] at ha
    exact ih _ _ (Memory.within_write _ _ _ _ h (by omega)) (by omega)

end Sys2Proof.Machine
end

