-- ==== Sys2Proof/Laws/State.lean ====
section
/-!
SUPPORT. One lemma per field per state update, each true by definition: what an update does to a field.
Later proofs rewrite with these and unfold no record update.
-/

namespace Sys2Proof.Machine

/-! ### accept: the accept of a command word (R160) -/

@[simp] theorem accept_ctrl (v : Word) (s : State) :
    (accept v s).ctrl = v := rfl
@[simp] theorem accept_busy (v : Word) (s : State) :
    (accept v s).busy = true := rfl
@[simp] theorem accept_done (v : Word) (s : State) :
    (accept v s).done = false := rfl
@[simp] theorem accept_keyValid (v : Word) (s : State) :
    (accept v s).keyValid = s.keyValid := rfl
@[simp] theorem accept_err (v : Word) (s : State) :
    (accept v s).err = 0 := rfl
@[simp] theorem accept_doneIe (v : Word) (s : State) :
    (accept v s).doneIe = s.doneIe := rfl
@[simp] theorem accept_wbusyIe (v : Word) (s : State) :
    (accept v s).wbusyIe = s.wbusyIe := rfl
@[simp] theorem accept_doneIp (v : Word) (s : State) :
    (accept v s).doneIp = s.doneIp := rfl
@[simp] theorem accept_wbusyIp (v : Word) (s : State) :
    (accept v s).wbusyIp = s.wbusyIp := rfl
@[simp] theorem accept_opa (v : Word) (s : State) :
    (accept v s).opa = s.opa := rfl
@[simp] theorem accept_opb (v : Word) (s : State) :
    (accept v s).opb = s.opb := rfl
@[simp] theorem accept_res (v : Word) (s : State) :
    (accept v s).res = s.res := rfl
@[simp] theorem accept_keyLen (v : Word) (s : State) :
    (accept v s).keyLen = s.keyLen := rfl
@[simp] theorem accept_key (v : Word) (s : State) :
    (accept v s).key = s.key := rfl
@[simp] theorem accept_iv (v : Word) (s : State) :
    (accept v s).iv = s.iv := rfl
@[simp] theorem accept_srcAddr (v : Word) (s : State) :
    (accept v s).srcAddr = s.srcAddr := rfl
@[simp] theorem accept_dstAddr (v : Word) (s : State) :
    (accept v s).dstAddr = s.dstAddr := rfl
@[simp] theorem accept_len (v : Word) (s : State) :
    (accept v s).len = s.len := rfl
@[simp] theorem accept_auxAddr (v : Word) (s : State) :
    (accept v s).auxAddr = s.auxAddr := rfl
@[simp] theorem accept_outLen (v : Word) (s : State) :
    (accept v s).outLen = s.outLen := rfl
@[simp] theorem accept_imgW (v : Word) (s : State) :
    (accept v s).imgW = s.imgW := rfl
@[simp] theorem accept_imgH (v : Word) (s : State) :
    (accept v s).imgH = s.imgH := rfl
@[simp] theorem accept_imgC (v : Word) (s : State) :
    (accept v s).imgC = s.imgC := rfl
@[simp] theorem accept_bitpos (v : Word) (s : State) :
    (accept v s).bitpos = s.bitpos := rfl
@[simp] theorem accept_noiseMilli (v : Word) (s : State) :
    (accept v s).noiseMilli = s.noiseMilli := rfl
@[simp] theorem accept_rngSeed (v : Word) (s : State) :
    (accept v s).rngSeed = s.rngSeed := rfl
@[simp] theorem accept_maxExtract (v : Word) (s : State) :
    (accept v s).maxExtract = s.maxExtract := rfl
@[simp] theorem accept_cipher (v : Word) (s : State) :
    (accept v s).cipher = s.cipher := rfl
@[simp] theorem accept_mem (v : Word) (s : State) :
    (accept v s).mem = s.mem := rfl
@[simp] theorem accept_inReset (v : Word) (s : State) :
    (accept v s).inReset = s.inReset := rfl
@[simp] theorem accept_portData (v : Word) (s : State) :
    (accept v s).portData = s.portData := rfl
@[simp] theorem accept_portError (v : Word) (s : State) :
    (accept v s).portError = s.portError := rfl
@[simp] theorem accept_agentData (v : Word) (s : State) :
    (accept v s).agentData = s.agentData := rfl
@[simp] theorem accept_hazard (v : Word) (s : State) :
    (accept v s).hazard = {} := rfl
@[simp] theorem accept_freeIx (v : Word) (s : State) :
    (accept v s).freeIx = s.freeIx := rfl
@[simp] theorem accept_inbox (v : Word) (s : State) :
    (accept v s).inbox = s.inbox := rfl
@[simp] theorem accept_build (v : Word) (s : State) :
    (accept v s).build = s.build := rfl

/-! ### complete: a completion (R163, R520) -/

@[simp] theorem complete_ctrl (e : ErrCode) (s : State) :
    (complete e s).ctrl = s.ctrl := rfl
@[simp] theorem complete_busy (e : ErrCode) (s : State) :
    (complete e s).busy = false := rfl
@[simp] theorem complete_done (e : ErrCode) (s : State) :
    (complete e s).done = true := rfl
@[simp] theorem complete_keyValid (e : ErrCode) (s : State) :
    (complete e s).keyValid = s.keyValid := rfl
@[simp] theorem complete_err (e : ErrCode) (s : State) :
    (complete e s).err = e.code := rfl
@[simp] theorem complete_doneIe (e : ErrCode) (s : State) :
    (complete e s).doneIe = s.doneIe := rfl
@[simp] theorem complete_wbusyIe (e : ErrCode) (s : State) :
    (complete e s).wbusyIe = s.wbusyIe := rfl
@[simp] theorem complete_doneIp (e : ErrCode) (s : State) :
    (complete e s).doneIp = true := rfl
@[simp] theorem complete_wbusyIp (e : ErrCode) (s : State) :
    (complete e s).wbusyIp = s.wbusyIp := rfl
@[simp] theorem complete_opa (e : ErrCode) (s : State) :
    (complete e s).opa = s.opa := rfl
@[simp] theorem complete_opb (e : ErrCode) (s : State) :
    (complete e s).opb = s.opb := rfl
@[simp] theorem complete_res (e : ErrCode) (s : State) :
    (complete e s).res = s.res := rfl
@[simp] theorem complete_keyLen (e : ErrCode) (s : State) :
    (complete e s).keyLen = s.keyLen := rfl
@[simp] theorem complete_key (e : ErrCode) (s : State) :
    (complete e s).key = s.key := rfl
@[simp] theorem complete_iv (e : ErrCode) (s : State) :
    (complete e s).iv = s.iv := rfl
@[simp] theorem complete_srcAddr (e : ErrCode) (s : State) :
    (complete e s).srcAddr = s.srcAddr := rfl
@[simp] theorem complete_dstAddr (e : ErrCode) (s : State) :
    (complete e s).dstAddr = s.dstAddr := rfl
@[simp] theorem complete_len (e : ErrCode) (s : State) :
    (complete e s).len = s.len := rfl
@[simp] theorem complete_auxAddr (e : ErrCode) (s : State) :
    (complete e s).auxAddr = s.auxAddr := rfl
@[simp] theorem complete_outLen (e : ErrCode) (s : State) :
    (complete e s).outLen = s.outLen := rfl
@[simp] theorem complete_imgW (e : ErrCode) (s : State) :
    (complete e s).imgW = s.imgW := rfl
@[simp] theorem complete_imgH (e : ErrCode) (s : State) :
    (complete e s).imgH = s.imgH := rfl
@[simp] theorem complete_imgC (e : ErrCode) (s : State) :
    (complete e s).imgC = s.imgC := rfl
@[simp] theorem complete_bitpos (e : ErrCode) (s : State) :
    (complete e s).bitpos = s.bitpos := rfl
@[simp] theorem complete_noiseMilli (e : ErrCode) (s : State) :
    (complete e s).noiseMilli = s.noiseMilli := rfl
@[simp] theorem complete_rngSeed (e : ErrCode) (s : State) :
    (complete e s).rngSeed = s.rngSeed := rfl
@[simp] theorem complete_maxExtract (e : ErrCode) (s : State) :
    (complete e s).maxExtract = s.maxExtract := rfl
@[simp] theorem complete_cipher (e : ErrCode) (s : State) :
    (complete e s).cipher = s.cipher := rfl
@[simp] theorem complete_mem (e : ErrCode) (s : State) :
    (complete e s).mem = s.mem := rfl
@[simp] theorem complete_inReset (e : ErrCode) (s : State) :
    (complete e s).inReset = s.inReset := rfl
@[simp] theorem complete_portData (e : ErrCode) (s : State) :
    (complete e s).portData = s.portData := rfl
@[simp] theorem complete_portError (e : ErrCode) (s : State) :
    (complete e s).portError = s.portError := rfl
@[simp] theorem complete_agentData (e : ErrCode) (s : State) :
    (complete e s).agentData = s.agentData := rfl
@[simp] theorem complete_hazard (e : ErrCode) (s : State) :
    (complete e s).hazard = {} := rfl
@[simp] theorem complete_freeIx (e : ErrCode) (s : State) :
    (complete e s).freeIx = s.freeIx := rfl
@[simp] theorem complete_inbox (e : ErrCode) (s : State) :
    (complete e s).inbox = s.inbox := rfl
@[simp] theorem complete_build (e : ErrCode) (s : State) :
    (complete e s).build = s.build := rfl

/-! ### freeOutLen: an `OUT_LEN` that is any value (R114) -/

@[simp] theorem freeOutLen_ctrl (s : State) :
    (freeOutLen s).ctrl = s.ctrl := rfl
@[simp] theorem freeOutLen_busy (s : State) :
    (freeOutLen s).busy = s.busy := rfl
@[simp] theorem freeOutLen_done (s : State) :
    (freeOutLen s).done = s.done := rfl
@[simp] theorem freeOutLen_keyValid (s : State) :
    (freeOutLen s).keyValid = s.keyValid := rfl
@[simp] theorem freeOutLen_err (s : State) :
    (freeOutLen s).err = s.err := rfl
@[simp] theorem freeOutLen_doneIe (s : State) :
    (freeOutLen s).doneIe = s.doneIe := rfl
@[simp] theorem freeOutLen_wbusyIe (s : State) :
    (freeOutLen s).wbusyIe = s.wbusyIe := rfl
@[simp] theorem freeOutLen_doneIp (s : State) :
    (freeOutLen s).doneIp = s.doneIp := rfl
@[simp] theorem freeOutLen_wbusyIp (s : State) :
    (freeOutLen s).wbusyIp = s.wbusyIp := rfl
@[simp] theorem freeOutLen_opa (s : State) :
    (freeOutLen s).opa = s.opa := rfl
@[simp] theorem freeOutLen_opb (s : State) :
    (freeOutLen s).opb = s.opb := rfl
@[simp] theorem freeOutLen_res (s : State) :
    (freeOutLen s).res = s.res := rfl
@[simp] theorem freeOutLen_keyLen (s : State) :
    (freeOutLen s).keyLen = s.keyLen := rfl
@[simp] theorem freeOutLen_key (s : State) :
    (freeOutLen s).key = s.key := rfl
@[simp] theorem freeOutLen_iv (s : State) :
    (freeOutLen s).iv = s.iv := rfl
@[simp] theorem freeOutLen_srcAddr (s : State) :
    (freeOutLen s).srcAddr = s.srcAddr := rfl
@[simp] theorem freeOutLen_dstAddr (s : State) :
    (freeOutLen s).dstAddr = s.dstAddr := rfl
@[simp] theorem freeOutLen_len (s : State) :
    (freeOutLen s).len = s.len := rfl
@[simp] theorem freeOutLen_auxAddr (s : State) :
    (freeOutLen s).auxAddr = s.auxAddr := rfl
@[simp] theorem freeOutLen_outLen (s : State) :
    (freeOutLen s).outLen = Config.freeWord s.freeIx := rfl
@[simp] theorem freeOutLen_imgW (s : State) :
    (freeOutLen s).imgW = s.imgW := rfl
@[simp] theorem freeOutLen_imgH (s : State) :
    (freeOutLen s).imgH = s.imgH := rfl
@[simp] theorem freeOutLen_imgC (s : State) :
    (freeOutLen s).imgC = s.imgC := rfl
@[simp] theorem freeOutLen_bitpos (s : State) :
    (freeOutLen s).bitpos = s.bitpos := rfl
@[simp] theorem freeOutLen_noiseMilli (s : State) :
    (freeOutLen s).noiseMilli = s.noiseMilli := rfl
@[simp] theorem freeOutLen_rngSeed (s : State) :
    (freeOutLen s).rngSeed = s.rngSeed := rfl
@[simp] theorem freeOutLen_maxExtract (s : State) :
    (freeOutLen s).maxExtract = s.maxExtract := rfl
@[simp] theorem freeOutLen_cipher (s : State) :
    (freeOutLen s).cipher = s.cipher := rfl
@[simp] theorem freeOutLen_mem (s : State) :
    (freeOutLen s).mem = s.mem := rfl
@[simp] theorem freeOutLen_inReset (s : State) :
    (freeOutLen s).inReset = s.inReset := rfl
@[simp] theorem freeOutLen_portData (s : State) :
    (freeOutLen s).portData = s.portData := rfl
@[simp] theorem freeOutLen_portError (s : State) :
    (freeOutLen s).portError = s.portError := rfl
@[simp] theorem freeOutLen_agentData (s : State) :
    (freeOutLen s).agentData = s.agentData := rfl
@[simp] theorem freeOutLen_hazard (s : State) :
    (freeOutLen s).hazard = s.hazard := rfl
@[simp] theorem freeOutLen_freeIx (s : State) :
    (freeOutLen s).freeIx = s.freeIx + 1 := rfl
@[simp] theorem freeOutLen_inbox (s : State) :
    (freeOutLen s).inbox = s.inbox := rfl
@[simp] theorem freeOutLen_build (s : State) :
    (freeOutLen s).build = s.build := rfl

/-! ### scrambleBuffer: a buffer whose bytes are any value (R115) -/

@[simp] theorem scrambleBuffer_ctrl (s : State) (b : Buffer) :
    (scrambleBuffer s b).ctrl = s.ctrl := rfl
@[simp] theorem scrambleBuffer_busy (s : State) (b : Buffer) :
    (scrambleBuffer s b).busy = s.busy := rfl
@[simp] theorem scrambleBuffer_done (s : State) (b : Buffer) :
    (scrambleBuffer s b).done = s.done := rfl
@[simp] theorem scrambleBuffer_keyValid (s : State) (b : Buffer) :
    (scrambleBuffer s b).keyValid = s.keyValid := rfl
@[simp] theorem scrambleBuffer_err (s : State) (b : Buffer) :
    (scrambleBuffer s b).err = s.err := rfl
@[simp] theorem scrambleBuffer_doneIe (s : State) (b : Buffer) :
    (scrambleBuffer s b).doneIe = s.doneIe := rfl
@[simp] theorem scrambleBuffer_wbusyIe (s : State) (b : Buffer) :
    (scrambleBuffer s b).wbusyIe = s.wbusyIe := rfl
@[simp] theorem scrambleBuffer_doneIp (s : State) (b : Buffer) :
    (scrambleBuffer s b).doneIp = s.doneIp := rfl
@[simp] theorem scrambleBuffer_wbusyIp (s : State) (b : Buffer) :
    (scrambleBuffer s b).wbusyIp = s.wbusyIp := rfl
@[simp] theorem scrambleBuffer_opa (s : State) (b : Buffer) :
    (scrambleBuffer s b).opa = s.opa := rfl
@[simp] theorem scrambleBuffer_opb (s : State) (b : Buffer) :
    (scrambleBuffer s b).opb = s.opb := rfl
@[simp] theorem scrambleBuffer_res (s : State) (b : Buffer) :
    (scrambleBuffer s b).res = s.res := rfl
@[simp] theorem scrambleBuffer_keyLen (s : State) (b : Buffer) :
    (scrambleBuffer s b).keyLen = s.keyLen := rfl
@[simp] theorem scrambleBuffer_key (s : State) (b : Buffer) :
    (scrambleBuffer s b).key = s.key := rfl
@[simp] theorem scrambleBuffer_iv (s : State) (b : Buffer) :
    (scrambleBuffer s b).iv = s.iv := rfl
@[simp] theorem scrambleBuffer_srcAddr (s : State) (b : Buffer) :
    (scrambleBuffer s b).srcAddr = s.srcAddr := rfl
@[simp] theorem scrambleBuffer_dstAddr (s : State) (b : Buffer) :
    (scrambleBuffer s b).dstAddr = s.dstAddr := rfl
@[simp] theorem scrambleBuffer_len (s : State) (b : Buffer) :
    (scrambleBuffer s b).len = s.len := rfl
@[simp] theorem scrambleBuffer_auxAddr (s : State) (b : Buffer) :
    (scrambleBuffer s b).auxAddr = s.auxAddr := rfl
@[simp] theorem scrambleBuffer_outLen (s : State) (b : Buffer) :
    (scrambleBuffer s b).outLen = s.outLen := rfl
@[simp] theorem scrambleBuffer_imgW (s : State) (b : Buffer) :
    (scrambleBuffer s b).imgW = s.imgW := rfl
@[simp] theorem scrambleBuffer_imgH (s : State) (b : Buffer) :
    (scrambleBuffer s b).imgH = s.imgH := rfl
@[simp] theorem scrambleBuffer_imgC (s : State) (b : Buffer) :
    (scrambleBuffer s b).imgC = s.imgC := rfl
@[simp] theorem scrambleBuffer_bitpos (s : State) (b : Buffer) :
    (scrambleBuffer s b).bitpos = s.bitpos := rfl
@[simp] theorem scrambleBuffer_noiseMilli (s : State) (b : Buffer) :
    (scrambleBuffer s b).noiseMilli = s.noiseMilli := rfl
@[simp] theorem scrambleBuffer_rngSeed (s : State) (b : Buffer) :
    (scrambleBuffer s b).rngSeed = s.rngSeed := rfl
@[simp] theorem scrambleBuffer_maxExtract (s : State) (b : Buffer) :
    (scrambleBuffer s b).maxExtract = s.maxExtract := rfl
@[simp] theorem scrambleBuffer_cipher (s : State) (b : Buffer) :
    (scrambleBuffer s b).cipher = s.cipher := rfl
@[simp] theorem scrambleBuffer_mem (s : State) (b : Buffer) :
    (scrambleBuffer s b).mem = s.mem.writeBytes b.start (freeBytes s.freeIx b.size) := rfl
@[simp] theorem scrambleBuffer_inReset (s : State) (b : Buffer) :
    (scrambleBuffer s b).inReset = s.inReset := rfl
@[simp] theorem scrambleBuffer_portData (s : State) (b : Buffer) :
    (scrambleBuffer s b).portData = s.portData := rfl
@[simp] theorem scrambleBuffer_portError (s : State) (b : Buffer) :
    (scrambleBuffer s b).portError = s.portError := rfl
@[simp] theorem scrambleBuffer_agentData (s : State) (b : Buffer) :
    (scrambleBuffer s b).agentData = s.agentData := rfl
@[simp] theorem scrambleBuffer_hazard (s : State) (b : Buffer) :
    (scrambleBuffer s b).hazard = s.hazard := rfl
@[simp] theorem scrambleBuffer_freeIx (s : State) (b : Buffer) :
    (scrambleBuffer s b).freeIx = s.freeIx + b.size := rfl
@[simp] theorem scrambleBuffer_inbox (s : State) (b : Buffer) :
    (scrambleBuffer s b).inbox = s.inbox := rfl
@[simp] theorem scrambleBuffer_build (s : State) (b : Buffer) :
    (scrambleBuffer s b).build = s.build := rfl

/-! ### ignoredWrite: an ignored write (R34) -/

@[simp] theorem ignoredWrite_ctrl (s : State) :
    (ignoredWrite s).ctrl = s.ctrl := rfl
@[simp] theorem ignoredWrite_busy (s : State) :
    (ignoredWrite s).busy = s.busy := rfl
@[simp] theorem ignoredWrite_done (s : State) :
    (ignoredWrite s).done = s.done := rfl
@[simp] theorem ignoredWrite_keyValid (s : State) :
    (ignoredWrite s).keyValid = s.keyValid := rfl
@[simp] theorem ignoredWrite_err (s : State) :
    (ignoredWrite s).err = s.err := rfl
@[simp] theorem ignoredWrite_doneIe (s : State) :
    (ignoredWrite s).doneIe = s.doneIe := rfl
@[simp] theorem ignoredWrite_wbusyIe (s : State) :
    (ignoredWrite s).wbusyIe = s.wbusyIe := rfl
@[simp] theorem ignoredWrite_doneIp (s : State) :
    (ignoredWrite s).doneIp = s.doneIp := rfl
@[simp] theorem ignoredWrite_wbusyIp (s : State) :
    (ignoredWrite s).wbusyIp = true := rfl
@[simp] theorem ignoredWrite_opa (s : State) :
    (ignoredWrite s).opa = s.opa := rfl
@[simp] theorem ignoredWrite_opb (s : State) :
    (ignoredWrite s).opb = s.opb := rfl
@[simp] theorem ignoredWrite_res (s : State) :
    (ignoredWrite s).res = s.res := rfl
@[simp] theorem ignoredWrite_keyLen (s : State) :
    (ignoredWrite s).keyLen = s.keyLen := rfl
@[simp] theorem ignoredWrite_key (s : State) :
    (ignoredWrite s).key = s.key := rfl
@[simp] theorem ignoredWrite_iv (s : State) :
    (ignoredWrite s).iv = s.iv := rfl
@[simp] theorem ignoredWrite_srcAddr (s : State) :
    (ignoredWrite s).srcAddr = s.srcAddr := rfl
@[simp] theorem ignoredWrite_dstAddr (s : State) :
    (ignoredWrite s).dstAddr = s.dstAddr := rfl
@[simp] theorem ignoredWrite_len (s : State) :
    (ignoredWrite s).len = s.len := rfl
@[simp] theorem ignoredWrite_auxAddr (s : State) :
    (ignoredWrite s).auxAddr = s.auxAddr := rfl
@[simp] theorem ignoredWrite_outLen (s : State) :
    (ignoredWrite s).outLen = s.outLen := rfl
@[simp] theorem ignoredWrite_imgW (s : State) :
    (ignoredWrite s).imgW = s.imgW := rfl
@[simp] theorem ignoredWrite_imgH (s : State) :
    (ignoredWrite s).imgH = s.imgH := rfl
@[simp] theorem ignoredWrite_imgC (s : State) :
    (ignoredWrite s).imgC = s.imgC := rfl
@[simp] theorem ignoredWrite_bitpos (s : State) :
    (ignoredWrite s).bitpos = s.bitpos := rfl
@[simp] theorem ignoredWrite_noiseMilli (s : State) :
    (ignoredWrite s).noiseMilli = s.noiseMilli := rfl
@[simp] theorem ignoredWrite_rngSeed (s : State) :
    (ignoredWrite s).rngSeed = s.rngSeed := rfl
@[simp] theorem ignoredWrite_maxExtract (s : State) :
    (ignoredWrite s).maxExtract = s.maxExtract := rfl
@[simp] theorem ignoredWrite_cipher (s : State) :
    (ignoredWrite s).cipher = s.cipher := rfl
@[simp] theorem ignoredWrite_mem (s : State) :
    (ignoredWrite s).mem = s.mem := rfl
@[simp] theorem ignoredWrite_inReset (s : State) :
    (ignoredWrite s).inReset = s.inReset := rfl
@[simp] theorem ignoredWrite_portData (s : State) :
    (ignoredWrite s).portData = s.portData := rfl
@[simp] theorem ignoredWrite_portError (s : State) :
    (ignoredWrite s).portError = s.portError := rfl
@[simp] theorem ignoredWrite_agentData (s : State) :
    (ignoredWrite s).agentData = s.agentData := rfl
@[simp] theorem ignoredWrite_hazard (s : State) :
    (ignoredWrite s).hazard = s.hazard := rfl
@[simp] theorem ignoredWrite_freeIx (s : State) :
    (ignoredWrite s).freeIx = s.freeIx := rfl
@[simp] theorem ignoredWrite_inbox (s : State) :
    (ignoredWrite s).inbox = s.inbox := rfl
@[simp] theorem ignoredWrite_build (s : State) :
    (ignoredWrite s).build = s.build := rfl

/-! ### writeIrqEn: a write of `IRQ_EN` (R540) -/

@[simp] theorem writeIrqEn_ctrl (v : Word) (s : State) :
    (writeIrqEn v s).ctrl = s.ctrl := rfl
@[simp] theorem writeIrqEn_busy (v : Word) (s : State) :
    (writeIrqEn v s).busy = s.busy := rfl
@[simp] theorem writeIrqEn_done (v : Word) (s : State) :
    (writeIrqEn v s).done = s.done := rfl
@[simp] theorem writeIrqEn_keyValid (v : Word) (s : State) :
    (writeIrqEn v s).keyValid = s.keyValid := rfl
@[simp] theorem writeIrqEn_err (v : Word) (s : State) :
    (writeIrqEn v s).err = s.err := rfl
@[simp] theorem writeIrqEn_doneIe (v : Word) (s : State) :
    (writeIrqEn v s).doneIe = v.getLsbD 0 := rfl
@[simp] theorem writeIrqEn_wbusyIe (v : Word) (s : State) :
    (writeIrqEn v s).wbusyIe = v.getLsbD 1 := rfl
@[simp] theorem writeIrqEn_doneIp (v : Word) (s : State) :
    (writeIrqEn v s).doneIp = s.doneIp := rfl
@[simp] theorem writeIrqEn_wbusyIp (v : Word) (s : State) :
    (writeIrqEn v s).wbusyIp = s.wbusyIp := rfl
@[simp] theorem writeIrqEn_opa (v : Word) (s : State) :
    (writeIrqEn v s).opa = s.opa := rfl
@[simp] theorem writeIrqEn_opb (v : Word) (s : State) :
    (writeIrqEn v s).opb = s.opb := rfl
@[simp] theorem writeIrqEn_res (v : Word) (s : State) :
    (writeIrqEn v s).res = s.res := rfl
@[simp] theorem writeIrqEn_keyLen (v : Word) (s : State) :
    (writeIrqEn v s).keyLen = s.keyLen := rfl
@[simp] theorem writeIrqEn_key (v : Word) (s : State) :
    (writeIrqEn v s).key = s.key := rfl
@[simp] theorem writeIrqEn_iv (v : Word) (s : State) :
    (writeIrqEn v s).iv = s.iv := rfl
@[simp] theorem writeIrqEn_srcAddr (v : Word) (s : State) :
    (writeIrqEn v s).srcAddr = s.srcAddr := rfl
@[simp] theorem writeIrqEn_dstAddr (v : Word) (s : State) :
    (writeIrqEn v s).dstAddr = s.dstAddr := rfl
@[simp] theorem writeIrqEn_len (v : Word) (s : State) :
    (writeIrqEn v s).len = s.len := rfl
@[simp] theorem writeIrqEn_auxAddr (v : Word) (s : State) :
    (writeIrqEn v s).auxAddr = s.auxAddr := rfl
@[simp] theorem writeIrqEn_outLen (v : Word) (s : State) :
    (writeIrqEn v s).outLen = s.outLen := rfl
@[simp] theorem writeIrqEn_imgW (v : Word) (s : State) :
    (writeIrqEn v s).imgW = s.imgW := rfl
@[simp] theorem writeIrqEn_imgH (v : Word) (s : State) :
    (writeIrqEn v s).imgH = s.imgH := rfl
@[simp] theorem writeIrqEn_imgC (v : Word) (s : State) :
    (writeIrqEn v s).imgC = s.imgC := rfl
@[simp] theorem writeIrqEn_bitpos (v : Word) (s : State) :
    (writeIrqEn v s).bitpos = s.bitpos := rfl
@[simp] theorem writeIrqEn_noiseMilli (v : Word) (s : State) :
    (writeIrqEn v s).noiseMilli = s.noiseMilli := rfl
@[simp] theorem writeIrqEn_rngSeed (v : Word) (s : State) :
    (writeIrqEn v s).rngSeed = s.rngSeed := rfl
@[simp] theorem writeIrqEn_maxExtract (v : Word) (s : State) :
    (writeIrqEn v s).maxExtract = s.maxExtract := rfl
@[simp] theorem writeIrqEn_cipher (v : Word) (s : State) :
    (writeIrqEn v s).cipher = s.cipher := rfl
@[simp] theorem writeIrqEn_mem (v : Word) (s : State) :
    (writeIrqEn v s).mem = s.mem := rfl
@[simp] theorem writeIrqEn_inReset (v : Word) (s : State) :
    (writeIrqEn v s).inReset = s.inReset := rfl
@[simp] theorem writeIrqEn_portData (v : Word) (s : State) :
    (writeIrqEn v s).portData = s.portData := rfl
@[simp] theorem writeIrqEn_portError (v : Word) (s : State) :
    (writeIrqEn v s).portError = s.portError := rfl
@[simp] theorem writeIrqEn_agentData (v : Word) (s : State) :
    (writeIrqEn v s).agentData = s.agentData := rfl
@[simp] theorem writeIrqEn_hazard (v : Word) (s : State) :
    (writeIrqEn v s).hazard = s.hazard := rfl
@[simp] theorem writeIrqEn_freeIx (v : Word) (s : State) :
    (writeIrqEn v s).freeIx = s.freeIx := rfl
@[simp] theorem writeIrqEn_inbox (v : Word) (s : State) :
    (writeIrqEn v s).inbox = s.inbox := rfl
@[simp] theorem writeIrqEn_build (v : Word) (s : State) :
    (writeIrqEn v s).build = s.build := rfl

/-! ### writeIrqStatus: a write of `IRQ_STATUS` (R541) -/

@[simp] theorem writeIrqStatus_ctrl (v : Word) (s : State) :
    (writeIrqStatus v s).ctrl = s.ctrl := rfl
@[simp] theorem writeIrqStatus_busy (v : Word) (s : State) :
    (writeIrqStatus v s).busy = s.busy := rfl
@[simp] theorem writeIrqStatus_done (v : Word) (s : State) :
    (writeIrqStatus v s).done = s.done := rfl
@[simp] theorem writeIrqStatus_keyValid (v : Word) (s : State) :
    (writeIrqStatus v s).keyValid = s.keyValid := rfl
@[simp] theorem writeIrqStatus_err (v : Word) (s : State) :
    (writeIrqStatus v s).err = s.err := rfl
@[simp] theorem writeIrqStatus_doneIe (v : Word) (s : State) :
    (writeIrqStatus v s).doneIe = s.doneIe := rfl
@[simp] theorem writeIrqStatus_wbusyIe (v : Word) (s : State) :
    (writeIrqStatus v s).wbusyIe = s.wbusyIe := rfl
@[simp] theorem writeIrqStatus_doneIp (v : Word) (s : State) :
    (writeIrqStatus v s).doneIp = (s.doneIp && !v.getLsbD 0) := rfl
@[simp] theorem writeIrqStatus_wbusyIp (v : Word) (s : State) :
    (writeIrqStatus v s).wbusyIp = (s.wbusyIp && !v.getLsbD 1) := rfl
@[simp] theorem writeIrqStatus_opa (v : Word) (s : State) :
    (writeIrqStatus v s).opa = s.opa := rfl
@[simp] theorem writeIrqStatus_opb (v : Word) (s : State) :
    (writeIrqStatus v s).opb = s.opb := rfl
@[simp] theorem writeIrqStatus_res (v : Word) (s : State) :
    (writeIrqStatus v s).res = s.res := rfl
@[simp] theorem writeIrqStatus_keyLen (v : Word) (s : State) :
    (writeIrqStatus v s).keyLen = s.keyLen := rfl
@[simp] theorem writeIrqStatus_key (v : Word) (s : State) :
    (writeIrqStatus v s).key = s.key := rfl
@[simp] theorem writeIrqStatus_iv (v : Word) (s : State) :
    (writeIrqStatus v s).iv = s.iv := rfl
@[simp] theorem writeIrqStatus_srcAddr (v : Word) (s : State) :
    (writeIrqStatus v s).srcAddr = s.srcAddr := rfl
@[simp] theorem writeIrqStatus_dstAddr (v : Word) (s : State) :
    (writeIrqStatus v s).dstAddr = s.dstAddr := rfl
@[simp] theorem writeIrqStatus_len (v : Word) (s : State) :
    (writeIrqStatus v s).len = s.len := rfl
@[simp] theorem writeIrqStatus_auxAddr (v : Word) (s : State) :
    (writeIrqStatus v s).auxAddr = s.auxAddr := rfl
@[simp] theorem writeIrqStatus_outLen (v : Word) (s : State) :
    (writeIrqStatus v s).outLen = s.outLen := rfl
@[simp] theorem writeIrqStatus_imgW (v : Word) (s : State) :
    (writeIrqStatus v s).imgW = s.imgW := rfl
@[simp] theorem writeIrqStatus_imgH (v : Word) (s : State) :
    (writeIrqStatus v s).imgH = s.imgH := rfl
@[simp] theorem writeIrqStatus_imgC (v : Word) (s : State) :
    (writeIrqStatus v s).imgC = s.imgC := rfl
@[simp] theorem writeIrqStatus_bitpos (v : Word) (s : State) :
    (writeIrqStatus v s).bitpos = s.bitpos := rfl
@[simp] theorem writeIrqStatus_noiseMilli (v : Word) (s : State) :
    (writeIrqStatus v s).noiseMilli = s.noiseMilli := rfl
@[simp] theorem writeIrqStatus_rngSeed (v : Word) (s : State) :
    (writeIrqStatus v s).rngSeed = s.rngSeed := rfl
@[simp] theorem writeIrqStatus_maxExtract (v : Word) (s : State) :
    (writeIrqStatus v s).maxExtract = s.maxExtract := rfl
@[simp] theorem writeIrqStatus_cipher (v : Word) (s : State) :
    (writeIrqStatus v s).cipher = s.cipher := rfl
@[simp] theorem writeIrqStatus_mem (v : Word) (s : State) :
    (writeIrqStatus v s).mem = s.mem := rfl
@[simp] theorem writeIrqStatus_inReset (v : Word) (s : State) :
    (writeIrqStatus v s).inReset = s.inReset := rfl
@[simp] theorem writeIrqStatus_portData (v : Word) (s : State) :
    (writeIrqStatus v s).portData = s.portData := rfl
@[simp] theorem writeIrqStatus_portError (v : Word) (s : State) :
    (writeIrqStatus v s).portError = s.portError := rfl
@[simp] theorem writeIrqStatus_agentData (v : Word) (s : State) :
    (writeIrqStatus v s).agentData = s.agentData := rfl
@[simp] theorem writeIrqStatus_hazard (v : Word) (s : State) :
    (writeIrqStatus v s).hazard = s.hazard := rfl
@[simp] theorem writeIrqStatus_freeIx (v : Word) (s : State) :
    (writeIrqStatus v s).freeIx = s.freeIx := rfl
@[simp] theorem writeIrqStatus_inbox (v : Word) (s : State) :
    (writeIrqStatus v s).inbox = s.inbox := rfl
@[simp] theorem writeIrqStatus_build (v : Word) (s : State) :
    (writeIrqStatus v s).build = s.build := rfl

/-! ### answer: an answer of the register port (R110) -/

@[simp] theorem answer_ctrl (d : Word) (x : Bool) (s : State) :
    (answer d x s).ctrl = s.ctrl := rfl
@[simp] theorem answer_busy (d : Word) (x : Bool) (s : State) :
    (answer d x s).busy = s.busy := rfl
@[simp] theorem answer_done (d : Word) (x : Bool) (s : State) :
    (answer d x s).done = s.done := rfl
@[simp] theorem answer_keyValid (d : Word) (x : Bool) (s : State) :
    (answer d x s).keyValid = s.keyValid := rfl
@[simp] theorem answer_err (d : Word) (x : Bool) (s : State) :
    (answer d x s).err = s.err := rfl
@[simp] theorem answer_doneIe (d : Word) (x : Bool) (s : State) :
    (answer d x s).doneIe = s.doneIe := rfl
@[simp] theorem answer_wbusyIe (d : Word) (x : Bool) (s : State) :
    (answer d x s).wbusyIe = s.wbusyIe := rfl
@[simp] theorem answer_doneIp (d : Word) (x : Bool) (s : State) :
    (answer d x s).doneIp = s.doneIp := rfl
@[simp] theorem answer_wbusyIp (d : Word) (x : Bool) (s : State) :
    (answer d x s).wbusyIp = s.wbusyIp := rfl
@[simp] theorem answer_opa (d : Word) (x : Bool) (s : State) :
    (answer d x s).opa = s.opa := rfl
@[simp] theorem answer_opb (d : Word) (x : Bool) (s : State) :
    (answer d x s).opb = s.opb := rfl
@[simp] theorem answer_res (d : Word) (x : Bool) (s : State) :
    (answer d x s).res = s.res := rfl
@[simp] theorem answer_keyLen (d : Word) (x : Bool) (s : State) :
    (answer d x s).keyLen = s.keyLen := rfl
@[simp] theorem answer_key (d : Word) (x : Bool) (s : State) :
    (answer d x s).key = s.key := rfl
@[simp] theorem answer_iv (d : Word) (x : Bool) (s : State) :
    (answer d x s).iv = s.iv := rfl
@[simp] theorem answer_srcAddr (d : Word) (x : Bool) (s : State) :
    (answer d x s).srcAddr = s.srcAddr := rfl
@[simp] theorem answer_dstAddr (d : Word) (x : Bool) (s : State) :
    (answer d x s).dstAddr = s.dstAddr := rfl
@[simp] theorem answer_len (d : Word) (x : Bool) (s : State) :
    (answer d x s).len = s.len := rfl
@[simp] theorem answer_auxAddr (d : Word) (x : Bool) (s : State) :
    (answer d x s).auxAddr = s.auxAddr := rfl
@[simp] theorem answer_outLen (d : Word) (x : Bool) (s : State) :
    (answer d x s).outLen = s.outLen := rfl
@[simp] theorem answer_imgW (d : Word) (x : Bool) (s : State) :
    (answer d x s).imgW = s.imgW := rfl
@[simp] theorem answer_imgH (d : Word) (x : Bool) (s : State) :
    (answer d x s).imgH = s.imgH := rfl
@[simp] theorem answer_imgC (d : Word) (x : Bool) (s : State) :
    (answer d x s).imgC = s.imgC := rfl
@[simp] theorem answer_bitpos (d : Word) (x : Bool) (s : State) :
    (answer d x s).bitpos = s.bitpos := rfl
@[simp] theorem answer_noiseMilli (d : Word) (x : Bool) (s : State) :
    (answer d x s).noiseMilli = s.noiseMilli := rfl
@[simp] theorem answer_rngSeed (d : Word) (x : Bool) (s : State) :
    (answer d x s).rngSeed = s.rngSeed := rfl
@[simp] theorem answer_maxExtract (d : Word) (x : Bool) (s : State) :
    (answer d x s).maxExtract = s.maxExtract := rfl
@[simp] theorem answer_cipher (d : Word) (x : Bool) (s : State) :
    (answer d x s).cipher = s.cipher := rfl
@[simp] theorem answer_mem (d : Word) (x : Bool) (s : State) :
    (answer d x s).mem = s.mem := rfl
@[simp] theorem answer_inReset (d : Word) (x : Bool) (s : State) :
    (answer d x s).inReset = s.inReset := rfl
@[simp] theorem answer_portData (d : Word) (x : Bool) (s : State) :
    (answer d x s).portData = d := rfl
@[simp] theorem answer_portError (d : Word) (x : Bool) (s : State) :
    (answer d x s).portError = x := rfl
@[simp] theorem answer_agentData (d : Word) (x : Bool) (s : State) :
    (answer d x s).agentData = s.agentData := rfl
@[simp] theorem answer_hazard (d : Word) (x : Bool) (s : State) :
    (answer d x s).hazard = s.hazard := rfl
@[simp] theorem answer_freeIx (d : Word) (x : Bool) (s : State) :
    (answer d x s).freeIx = s.freeIx := rfl
@[simp] theorem answer_inbox (d : Word) (x : Bool) (s : State) :
    (answer d x s).inbox = s.inbox := rfl
@[simp] theorem answer_build (d : Word) (x : Bool) (s : State) :
    (answer d x s).build = s.build := rfl

/-! ### resetRegisters: the registers' return to their reset values (R580, R581) -/

@[simp] theorem resetRegisters_ctrl (s : State) :
    (resetRegisters s).ctrl = State.reset.ctrl := rfl
@[simp] theorem resetRegisters_busy (s : State) :
    (resetRegisters s).busy = State.reset.busy := rfl
@[simp] theorem resetRegisters_done (s : State) :
    (resetRegisters s).done = State.reset.done := rfl
@[simp] theorem resetRegisters_keyValid (s : State) :
    (resetRegisters s).keyValid = State.reset.keyValid := rfl
@[simp] theorem resetRegisters_err (s : State) :
    (resetRegisters s).err = State.reset.err := rfl
@[simp] theorem resetRegisters_doneIe (s : State) :
    (resetRegisters s).doneIe = State.reset.doneIe := rfl
@[simp] theorem resetRegisters_wbusyIe (s : State) :
    (resetRegisters s).wbusyIe = State.reset.wbusyIe := rfl
@[simp] theorem resetRegisters_doneIp (s : State) :
    (resetRegisters s).doneIp = State.reset.doneIp := rfl
@[simp] theorem resetRegisters_wbusyIp (s : State) :
    (resetRegisters s).wbusyIp = State.reset.wbusyIp := rfl
@[simp] theorem resetRegisters_opa (s : State) :
    (resetRegisters s).opa = State.reset.opa := rfl
@[simp] theorem resetRegisters_opb (s : State) :
    (resetRegisters s).opb = State.reset.opb := rfl
@[simp] theorem resetRegisters_res (s : State) :
    (resetRegisters s).res = State.reset.res := rfl
@[simp] theorem resetRegisters_keyLen (s : State) :
    (resetRegisters s).keyLen = State.reset.keyLen := rfl
@[simp] theorem resetRegisters_key (s : State) :
    (resetRegisters s).key = State.reset.key := rfl
@[simp] theorem resetRegisters_iv (s : State) :
    (resetRegisters s).iv = State.reset.iv := rfl
@[simp] theorem resetRegisters_srcAddr (s : State) :
    (resetRegisters s).srcAddr = State.reset.srcAddr := rfl
@[simp] theorem resetRegisters_dstAddr (s : State) :
    (resetRegisters s).dstAddr = State.reset.dstAddr := rfl
@[simp] theorem resetRegisters_len (s : State) :
    (resetRegisters s).len = State.reset.len := rfl
@[simp] theorem resetRegisters_auxAddr (s : State) :
    (resetRegisters s).auxAddr = State.reset.auxAddr := rfl
@[simp] theorem resetRegisters_outLen (s : State) :
    (resetRegisters s).outLen = State.reset.outLen := rfl
@[simp] theorem resetRegisters_imgW (s : State) :
    (resetRegisters s).imgW = State.reset.imgW := rfl
@[simp] theorem resetRegisters_imgH (s : State) :
    (resetRegisters s).imgH = State.reset.imgH := rfl
@[simp] theorem resetRegisters_imgC (s : State) :
    (resetRegisters s).imgC = State.reset.imgC := rfl
@[simp] theorem resetRegisters_bitpos (s : State) :
    (resetRegisters s).bitpos = State.reset.bitpos := rfl
@[simp] theorem resetRegisters_noiseMilli (s : State) :
    (resetRegisters s).noiseMilli = State.reset.noiseMilli := rfl
@[simp] theorem resetRegisters_rngSeed (s : State) :
    (resetRegisters s).rngSeed = State.reset.rngSeed := rfl
@[simp] theorem resetRegisters_maxExtract (s : State) :
    (resetRegisters s).maxExtract = State.reset.maxExtract := rfl
@[simp] theorem resetRegisters_cipher (s : State) :
    (resetRegisters s).cipher = State.reset.cipher := rfl
@[simp] theorem resetRegisters_mem (s : State) :
    (resetRegisters s).mem = s.mem := rfl
@[simp] theorem resetRegisters_inReset (s : State) :
    (resetRegisters s).inReset = true := rfl
@[simp] theorem resetRegisters_portData (s : State) :
    (resetRegisters s).portData = s.portData := rfl
@[simp] theorem resetRegisters_portError (s : State) :
    (resetRegisters s).portError = s.portError := rfl
@[simp] theorem resetRegisters_agentData (s : State) :
    (resetRegisters s).agentData = s.agentData := rfl
@[simp] theorem resetRegisters_hazard (s : State) :
    (resetRegisters s).hazard = State.reset.hazard := rfl
@[simp] theorem resetRegisters_freeIx (s : State) :
    (resetRegisters s).freeIx = s.freeIx := rfl
@[simp] theorem resetRegisters_inbox (s : State) :
    (resetRegisters s).inbox = s.inbox := rfl
@[simp] theorem resetRegisters_build (s : State) :
    (resetRegisters s).build = s.build := rfl

/-! ### releaseReset: the release of the reset input (R581) -/

@[simp] theorem releaseReset_ctrl (s : State) :
    (releaseReset s).ctrl = s.ctrl := rfl
@[simp] theorem releaseReset_busy (s : State) :
    (releaseReset s).busy = s.busy := rfl
@[simp] theorem releaseReset_done (s : State) :
    (releaseReset s).done = s.done := rfl
@[simp] theorem releaseReset_keyValid (s : State) :
    (releaseReset s).keyValid = s.keyValid := rfl
@[simp] theorem releaseReset_err (s : State) :
    (releaseReset s).err = s.err := rfl
@[simp] theorem releaseReset_doneIe (s : State) :
    (releaseReset s).doneIe = s.doneIe := rfl
@[simp] theorem releaseReset_wbusyIe (s : State) :
    (releaseReset s).wbusyIe = s.wbusyIe := rfl
@[simp] theorem releaseReset_doneIp (s : State) :
    (releaseReset s).doneIp = s.doneIp := rfl
@[simp] theorem releaseReset_wbusyIp (s : State) :
    (releaseReset s).wbusyIp = s.wbusyIp := rfl
@[simp] theorem releaseReset_opa (s : State) :
    (releaseReset s).opa = s.opa := rfl
@[simp] theorem releaseReset_opb (s : State) :
    (releaseReset s).opb = s.opb := rfl
@[simp] theorem releaseReset_res (s : State) :
    (releaseReset s).res = s.res := rfl
@[simp] theorem releaseReset_keyLen (s : State) :
    (releaseReset s).keyLen = s.keyLen := rfl
@[simp] theorem releaseReset_key (s : State) :
    (releaseReset s).key = s.key := rfl
@[simp] theorem releaseReset_iv (s : State) :
    (releaseReset s).iv = s.iv := rfl
@[simp] theorem releaseReset_srcAddr (s : State) :
    (releaseReset s).srcAddr = s.srcAddr := rfl
@[simp] theorem releaseReset_dstAddr (s : State) :
    (releaseReset s).dstAddr = s.dstAddr := rfl
@[simp] theorem releaseReset_len (s : State) :
    (releaseReset s).len = s.len := rfl
@[simp] theorem releaseReset_auxAddr (s : State) :
    (releaseReset s).auxAddr = s.auxAddr := rfl
@[simp] theorem releaseReset_outLen (s : State) :
    (releaseReset s).outLen = s.outLen := rfl
@[simp] theorem releaseReset_imgW (s : State) :
    (releaseReset s).imgW = s.imgW := rfl
@[simp] theorem releaseReset_imgH (s : State) :
    (releaseReset s).imgH = s.imgH := rfl
@[simp] theorem releaseReset_imgC (s : State) :
    (releaseReset s).imgC = s.imgC := rfl
@[simp] theorem releaseReset_bitpos (s : State) :
    (releaseReset s).bitpos = s.bitpos := rfl
@[simp] theorem releaseReset_noiseMilli (s : State) :
    (releaseReset s).noiseMilli = s.noiseMilli := rfl
@[simp] theorem releaseReset_rngSeed (s : State) :
    (releaseReset s).rngSeed = s.rngSeed := rfl
@[simp] theorem releaseReset_maxExtract (s : State) :
    (releaseReset s).maxExtract = s.maxExtract := rfl
@[simp] theorem releaseReset_cipher (s : State) :
    (releaseReset s).cipher = s.cipher := rfl
@[simp] theorem releaseReset_mem (s : State) :
    (releaseReset s).mem = s.mem := rfl
@[simp] theorem releaseReset_inReset (s : State) :
    (releaseReset s).inReset = false := rfl
@[simp] theorem releaseReset_portData (s : State) :
    (releaseReset s).portData = s.portData := rfl
@[simp] theorem releaseReset_portError (s : State) :
    (releaseReset s).portError = s.portError := rfl
@[simp] theorem releaseReset_agentData (s : State) :
    (releaseReset s).agentData = s.agentData := rfl
@[simp] theorem releaseReset_hazard (s : State) :
    (releaseReset s).hazard = s.hazard := rfl
@[simp] theorem releaseReset_freeIx (s : State) :
    (releaseReset s).freeIx = s.freeIx := rfl
@[simp] theorem releaseReset_inbox (s : State) :
    (releaseReset s).inbox = s.inbox := rfl
@[simp] theorem releaseReset_build (s : State) :
    (releaseReset s).build = s.build := rfl

end Sys2Proof.Machine
end

