-- ==== Sys2Proof/Laws/Ops.lean ====
section
/-!
SUPPORT. What each shared operation can do, said once: buffers, the any-value effects, and the two ways a
command ends (spec/20_memory.md rules R103, R108, R114, R115; spec/60_exceptions.md rules R520, R522).
-/

namespace Sys2Proof.Machine

theorem inRange_iff (memSize : Nat) (b : Buffer) :
    inRange memSize b = true ↔ b.size = 0 ∨ b.start + b.size ≤ memSize := by
  simp [inRange]

theorem inBuffer_iff (a : Nat) (b : Buffer) :
    inBuffer a b = true ↔ b.start ≤ a ∧ a < b.start + b.size := by
  simp [inBuffer]

theorem overlap_iff (b c : Buffer) :
    overlap b c = true ↔
      0 < b.size ∧ 0 < c.size ∧ b.start < c.start + c.size ∧ c.start < b.start + b.size := by
  simp [overlap, and_assoc]

@[simp] theorem length_freeBytes (ix n : Nat) : (freeBytes ix n).length = n := by
  simp [freeBytes]

/-- The first failing check is one of the command's checks, and it fails. -/
theorem firstError_mem (i : Instr) (s : State) (e : ErrCode) (h : firstError i s = some e) :
    (e, true) ∈ checks i s := by
  obtain ⟨c, hc, rfl⟩ := Option.map_eq_some_iff.mp h
  have h2 : c.2 = true := by simpa using List.find?_some hc
  have := List.mem_of_find?_eq_some hc
  rwa [show (c.1, true) = c by rw [← h2]]

/-- A command without an error passes every one of its checks. -/
theorem firstError_none_iff (i : Instr) (s : State) :
    firstError i s = none ↔ ∀ c ∈ checks i s, c.2 = false := by
  simp [firstError]

/-- The buffers of a memory command that passes its checks are in range. -/
theorem buffers_inRange_of_checked (i : Instr) (s : State) (h : firstError i s = none) :
    ∀ b ∈ readBuffers i s ++ writeBuffers i s, inRange s.build.memSize b = true := by
  have hc := (firstError_none_iff i s).mp h
  have key : (ErrCode.range, rangeError i s) ∈ checks i s →
      ∀ b ∈ readBuffers i s ++ writeBuffers i s, inRange s.build.memSize b = true := fun hm =>
    List.all_eq_true.mp (by simpa [rangeError] using hc _ hm)
  cases i
  case encBlock | decBlock | cbcEnc | cbcDec | embed | extract | noise => exact key (by simp [checks])
  all_goals simp [readBuffers, writeBuffers]

/-! The checks and the buffers read the registers, the flags and the build only (R522). -/

theorem firstError_hazard_inbox (i : Instr) (s : State) (h : Hazard) (rest : List Event) :
    firstError i { s with hazard := h, inbox := rest } = firstError i s := by
  cases i <;> rfl

theorem readBuffers_hazard_inbox (i : Instr) (s : State) (h : Hazard) (rest : List Event) :
    readBuffers i { s with hazard := h, inbox := rest } = readBuffers i s := by
  cases i <;> rfl

theorem writeBuffers_hazard_inbox (i : Instr) (s : State) (h : Hazard) (rest : List Event) :
    writeBuffers i { s with hazard := h, inbox := rest } = writeBuffers i s := by
  cases i <;> rfl

/-- What a record of any-value buffers changes: their bytes and the count of free values. -/
theorem scrambleBuffers_frame (bs : List Buffer) (s : State) :
    scrambleBuffers bs s =
      { s with mem := (scrambleBuffers bs s).mem, freeIx := (scrambleBuffers bs s).freeIx } := by
  induction bs generalizing s with
  | nil => rfl
  | cons b bs ih => exact (ih (scrambleBuffer s b)).trans rfl

theorem scrambleBuffers_read_outside (bs : List Buffer) (s : State) (a : Nat)
    (h : inBuffers a bs = false) : (scrambleBuffers bs s).mem.read a = s.mem.read a := by
  induction bs generalizing s with
  | nil => rfl
  | cons b bs ih =>
    obtain ⟨hb, hbs⟩ : inBuffer a b = false ∧ inBuffers a bs = false := by
      simpa [inBuffers] using h
    have hb' : ¬(b.start ≤ a ∧ a < b.start + b.size) := by
      rw [← inBuffer_iff, hb]; simp
    exact (ih (scrambleBuffer s b) hbs).trans
      (Memory.read_writeBytes_outside _ _ _ _ (by simpa using hb'))

/-- A byte of a record of any-value buffers is a free value, and so is any other byte that was one. -/
theorem scrambleBuffers_read_inside (bs : List Buffer) (s : State) (a : Nat)
    (h : inBuffers a bs = true ∨ ∃ m, s.mem.read a = Config.freeByte m) :
    ∃ m, (scrambleBuffers bs s).mem.read a = Config.freeByte m := by
  induction bs generalizing s with
  | nil => simpa [scrambleBuffers, inBuffers] using h
  | cons b bs ih =>
    refine ih (scrambleBuffer s b) ?_
    by_cases hb : inBuffer a b = true
    · obtain ⟨h1, h2⟩ := (inBuffer_iff _ _).mp hb
      refine .inr ⟨s.freeIx + (a - b.start), ?_⟩
      rw [scrambleBuffer, Memory.read_writeBytes, length_freeBytes, if_pos ⟨h1, h2⟩]
      simp [freeBytes, List.getD, show a - b.start < b.size by omega]
    · refine h.imp (fun h => by simpa [inBuffers, hb] using h) fun ⟨m, hm⟩ => ⟨m, ?_⟩
      have := (inBuffer_iff a b).not.mp hb
      exact (Memory.read_writeBytes_outside _ _ _ _ (by simpa using this)).trans hm

theorem scrambleBuffers_wf (bs : List Buffer) (s : State) (h : s.mem.wf) :
    (scrambleBuffers bs s).mem.wf := by
  induction bs generalizing s with
  | nil => exact h
  | cons b bs ih => exact ih _ (Memory.wf_writeBytes _ _ _ h)

theorem scrambleBuffers_within (bs : List Buffer) (s : State) (size : Nat) (h : s.mem.within size)
    (hb : ∀ b ∈ bs, inRange size b = true) : (scrambleBuffers bs s).mem.within size := by
  induction bs generalizing s with
  | nil => exact h
  | cons b bs ih =>
    refine ih _ (Memory.within_writeBytes _ _ _ _ h ?_) fun c hc => hb c (by simp [hc])
    simpa [inRange_iff] using hb b (by simp)

/-- What the writes of other agents change: bytes of the write buffers, `OUT_LEN` and the count of free
values. -/
theorem disturb_frame (bs : List Buffer) (h : Hazard) (s : State) :
    disturb bs h s =
      { s with
        mem := (disturb bs h s).mem
        outLen := (disturb bs h s).outLen
        freeIx := (disturb bs h s).freeIx } := by
  unfold disturb
  split
  · conv_lhs => rw [scrambleBuffers_frame]
    rw [scrambleBuffers_frame]
    rfl
  · exact (scrambleBuffers_frame _ _).trans (by rw [scrambleBuffers_frame])

theorem inBuffers_hits (bs : List Buffer) (hits : List Nat) (a : Nat) (h : inBuffers a bs = false) :
    inBuffers a ((hits.filter fun x => inBuffers x bs).map fun x => ⟨x, 1⟩) = false := by
  simp only [inBuffers, List.any_map, List.any_eq_false, Function.comp_apply, inBuffer_iff]
  intro x hx
  have hx := (List.mem_filter.mp hx).2
  rintro ⟨h1, h2⟩
  obtain rfl : x = a := by simp at h1 h2; omega
  rw [inBuffers, hx] at h
  contradiction

theorem disturb_read_outside (bs : List Buffer) (h : Hazard) (s : State) (a : Nat)
    (ha : inBuffers a bs = false) : (disturb bs h s).mem.read a = s.mem.read a := by
  unfold disturb
  split
  · exact scrambleBuffers_read_outside _ _ _ ha
  · exact scrambleBuffers_read_outside _ _ _ (inBuffers_hits _ _ _ ha)

/-- A byte of the write buffers is a free value after the disturbance where a read buffer was written, where
it was written itself, and where it was one already. -/
theorem disturb_read_inside (bs : List Buffer) (h : Hazard) (s : State) (a : Nat)
    (ha : inBuffers a bs = true)
    (hh : h.readHit = true ∨ a ∈ h.writeHits ∨ ∃ m, s.mem.read a = Config.freeByte m) :
    ∃ m, (disturb bs h s).mem.read a = Config.freeByte m := by
  unfold disturb
  split
  · exact scrambleBuffers_read_inside _ _ _ (.inl ha)
  · next hr =>
    refine scrambleBuffers_read_inside _ _ _ ((hh.resolve_left hr).imp (fun hm => ?_) id)
    simp only [inBuffers, List.any_map, List.any_eq_true, Function.comp_apply, inBuffer_iff]
    exact ⟨a, List.mem_filter.mpr ⟨hm, ha⟩, by simp, by simp⟩

/-- Without a disturbance nothing is disturbed. -/
theorem disturb_none (bs : List Buffer) (b : Bool) (s : State) :
    disturb bs { busError := b } s = s := rfl

theorem disturb_wf (bs : List Buffer) (h : Hazard) (s : State) (hm : s.mem.wf) :
    (disturb bs h s).mem.wf := by
  unfold disturb
  split
  · exact scrambleBuffers_wf _ _ hm
  · exact scrambleBuffers_wf _ _ hm

theorem disturb_within (bs : List Buffer) (h : Hazard) (s : State) (size : Nat)
    (hm : s.mem.within size) (hb : ∀ b ∈ bs, inRange size b = true) :
    (disturb bs h s).mem.within size := by
  unfold disturb
  split
  · exact scrambleBuffers_within _ _ _ hm hb
  · refine scrambleBuffers_within _ _ _ hm fun c hc => ?_
    obtain ⟨x, hx, rfl⟩ := List.mem_map.mp hc
    obtain ⟨b, hbm, hxb⟩ := List.any_eq_true.mp (List.mem_filter.mp hx).2
    have := (inRange_iff _ _).mp (hb b hbm)
    rw [inBuffer_iff] at hxb
    rw [inRange_iff]
    right
    show x + 1 ≤ size
    omega

/-- What storing a result length changes. -/
theorem setOutLen_frame (n : Nat) (s : State) :
    setOutLen n s = { s with outLen := (setOutLen n s).outLen, freeIx := (setOutLen n s).freeIx } := by
  unfold setOutLen
  split <;> rfl

theorem setOutLen_fits (n : Nat) (s : State) (h : n < 2 ^ 32) :
    setOutLen n s = { s with outLen := BitVec.ofNat 32 n } := if_pos h

/-- What the results of a memory command change, and where its bytes go. -/
theorem storeResult_frame (r : MemResult) (s : State) :
    storeResult r s =
      { s with
        mem := s.mem.writeBytes s.dstAddr.toNat r.bytes
        outLen := (storeResult r s).outLen
        freeIx := (storeResult r s).freeIx } :=
  (setOutLen_frame _ _).trans rfl

theorem storeResult_mem (r : MemResult) (s : State) :
    (storeResult r s).mem = s.mem.writeBytes s.dstAddr.toNat r.bytes := by
  rw [storeResult_frame]

/-- An undisturbed memory command that passes its checks stores its results and completes. -/
theorem finishMemory_undisturbed (i : Instr) (r : State → MemResult) (s : State)
    (h : s.hazard = {}) : finishMemory i r s = complete .ok (storeResult (r s) s) := by
  simp [finishMemory, busErrorReaches, h, disturb_none]

/-- Everything the end of a memory command can change: bytes of its write buffers, `OUT_LEN`, the count of
free values and the completion. -/
theorem finishMemory_frame (i : Instr) (r : State → MemResult) (s : State) :
    finishMemory i r s =
      { s with
        mem := (finishMemory i r s).mem
        outLen := (finishMemory i r s).outLen
        freeIx := (finishMemory i r s).freeIx
        busy := false
        done := true
        err := if busErrorReaches i s then ErrCode.bus.code else ErrCode.ok.code
        doneIp := true
        hazard := {} } := by
  have key : ∀ t, t = finishMemory i r s → t =
      { s with
        mem := t.mem
        outLen := t.outLen
        freeIx := t.freeIx
        busy := false
        done := true
        err := if busErrorReaches i s then ErrCode.bus.code else ErrCode.ok.code
        doneIp := true
        hazard := {} } := by
    intro t ht
    rw [finishMemory, disturb_frame] at ht
    by_cases hb : busErrorReaches i s = true
    · simp only [hb, if_true] at ht ⊢
      rw [scrambleBuffers_frame] at ht
      rw [ht]
      rfl
    · simp only [hb] at ht ⊢
      rw [storeResult_frame] at ht
      rw [ht]
      rfl
  exact key _ rfl

theorem finishMemory_read_outside (i : Instr) (r : State → MemResult) (s : State) (a : Nat)
    (ha : inBuffers a (writeBuffers i s) = false)
    (hr : ¬(s.dstAddr.toNat ≤ a ∧ a < s.dstAddr.toNat + (r s).bytes.length)) :
    (finishMemory i r s).mem.read a = s.mem.read a := by
  rw [finishMemory, disturb_read_outside _ _ _ _ ha]
  split
  · exact scrambleBuffers_read_outside _ _ _ ha
  · rw [complete_mem, storeResult_mem]
    exact Memory.read_writeBytes_outside _ _ _ _ hr

/-- The two ends of a memory command. -/
theorem memoryCommand_cases (i : Instr) (r : State → MemResult) (s t : State)
    (h : memoryCommand i r s = .next t) :
    (∃ e, firstError i s = some e ∧ t = complete e s) ∨
      (firstError i s = none ∧ t = finishMemory i r s) := by
  unfold memoryCommand at h
  split at h
  · next e he => exact .inl ⟨e, he, (Host.Outcome.next.inj h).symm⟩
  · next he => exact .inr ⟨he, (Host.Outcome.next.inj h).symm⟩

/-- The two ends of a table lookup. -/
theorem lookupCommand_cases (i : Instr) (tab : Vector Byte 256) (s t : State)
    (h : lookupCommand i tab s = .next t) :
    (∃ e, firstError i s = some e ∧ t = complete e s) ∨
      (firstError i s = none ∧
        t = complete .ok { s with res := (lookup tab (opA8 s)).setWidth 32 }) := by
  unfold lookupCommand at h
  split at h
  · next e he => exact .inl ⟨e, he, (Host.Outcome.next.inj h).symm⟩
  · next he => exact .inr ⟨he, (Host.Outcome.next.inj h).symm⟩

/-- The two ends of KEY_INIT. -/
theorem execKeyInit_cases (s t : State) (h : execKeyInit s = .next t) :
    (∃ e, firstError .keyInit s = some e ∧ t = complete e s) ∨
      (firstError .keyInit s = none ∧
        t = complete .ok
          { s with cipher := construct s.build (keyBytes s), keyValid := true }) := by
  unfold execKeyInit at h
  split at h
  · next e he => exact .inl ⟨e, he, (Host.Outcome.next.inj h).symm⟩
  · next he => exact .inr ⟨he, (Host.Outcome.next.inj h).symm⟩

end Sys2Proof.Machine
end

