-- ==== Sys2Proof/Laws/PerInstr.lean ====
section
/-!
SUPPORT. A statement made once per command: the code of its encoding is one of rule R152's, its reserved
bits are zero, and the word is therefore a valid command word (spec/30_encoding.md rule R150).
-/

namespace Sys2Proof.Laws.EncodedWordValid

/-- The command word of a command is a valid one. -/
def Statement (i : Instr) : Prop := i.wellFormed = true ∧ wordValid (encode i) = true

theorem nop : Statement .nop := ⟨rfl, by decide⟩
theorem gfPmul : Statement .gfPmul := ⟨rfl, by decide⟩
theorem gfReduce : Statement .gfReduce := ⟨rfl, by decide⟩
theorem gfXtime : Statement .gfXtime := ⟨rfl, by decide⟩
theorem gfMul : Statement .gfMul := ⟨rfl, by decide⟩
theorem gfInv : Statement .gfInv := ⟨rfl, by decide⟩
theorem gfAffine : Statement .gfAffine := ⟨rfl, by decide⟩
theorem gfSbox : Statement .gfSbox := ⟨rfl, by decide⟩
theorem sboxLookup : Statement .sboxLookup := ⟨rfl, by decide⟩
theorem invsboxLookup : Statement .invsboxLookup := ⟨rfl, by decide⟩
theorem keyInit : Statement .keyInit := ⟨rfl, by decide⟩
theorem encBlock : Statement .encBlock := ⟨rfl, by decide⟩
theorem decBlock : Statement .decBlock := ⟨rfl, by decide⟩
theorem cbcEnc : Statement .cbcEnc := ⟨rfl, by decide⟩
theorem cbcDec : Statement .cbcDec := ⟨rfl, by decide⟩
theorem embed : Statement .embed := ⟨rfl, by decide⟩
theorem extract : Statement .extract := ⟨rfl, by decide⟩
theorem noise : Statement .noise := ⟨rfl, by decide⟩

end Sys2Proof.Laws.EncodedWordValid
end

