-- ==== Sys2Proof/Laws/Step.lean ====
section
/-!
SUPPORT. What a step can be: the one case split over the inputs, from which statements about every step
are derived (spec/30_encoding.md rule R164), what is owned while a command runs (spec/20_memory.md rule R114),
and what a host access is (R100).
-/

namespace Sys2Proof.Machine

/-- The two turns of the engine. -/
theorem engineTurn_cases (s t : State) (h : engineTurn s = .next t) :
    ((s.busy = true ∧ s.inReset = false) ∧ runCommand s = .next t) ∨
      (¬(s.busy = true ∧ s.inReset = false) ∧ t = s) := by
  unfold engineTurn at h
  split at h
  · next hb => exact .inl ⟨by simpa using hb, h⟩
  · next hb => exact .inr ⟨by simpa using hb, (Host.Outcome.next.inj h).symm⟩

/-- The command in progress is a command of the table, or its word is illegal. -/
theorem runCommand_cases (s t : State) (h : runCommand s = .next t) :
    (∃ i, decode s.ctrl = .ok i ∧ exec i s = .next t) ∨
      (∃ e, decode s.ctrl = .error e ∧ t = complete .cmd s) := by
  unfold runCommand at h
  split at h
  · next i hi => exact .inl ⟨i, hi, h⟩
  · next e he => exact .inr ⟨e, he, (Host.Outcome.next.inj h).symm⟩

/-- The command in progress owns its buffers when its checks pass. -/
theorem activeCommand_of_checked (s : State) (i : Instr) (hb : s.busy = true)
    (hd : decode s.ctrl = .ok i) (h : firstError i s = none) : activeCommand s = some i := by
  simp [activeCommand, hb, hd, h]

/-- Nothing is owned where no command's checks pass. -/
theorem activeCommand_eq_none (s : State)
    (h : ∀ i, decode s.ctrl = .ok i → firstError i s ≠ none) : activeCommand s = none := by
  unfold activeCommand
  split
  · split
    · next i hi => rw [if_neg (h i hi)]
    · rfl
  · rfl

/-- A host access becomes a port access exactly where its address is `REG_BASE` plus the offset (R100). -/
theorem windowAccess_eq_some_iff (bld : Build) (h : HostAccess) (t : PortAccess) :
    windowAccess bld h = some t ↔
      h.addr = bld.regBase + t.offset.toNat ∧ t = ⟨h.write, t.offset, h.width, h.data⟩ := by
  obtain ⟨w, a, k, d⟩ := h
  obtain ⟨w', o, k', d'⟩ := t
  have ho := o.isLt
  simp only [windowAccess, Option.ite_none_right_eq_some, Option.some.injEq, PortAccess.mk.injEq]
  constructor
  · rintro ⟨⟨h1, h2⟩, rfl, rfl, rfl, rfl⟩
    simp only [BitVec.toNat_ofNat, and_self, and_true]
    omega
  · rintro ⟨rfl, rfl, -, rfl, rfl⟩
    simp
    omega

/-- What a host access can do: a port access at its offset in the window, or nothing. -/
theorem hostAccess_cases (h : HostAccess) (s : State) :
    (∃ t, windowAccess s.build h = some t ∧ hostAccess h s = portAccess t s) ∨
      (windowAccess s.build h = none ∧ hostAccess h s = s) := by
  unfold hostAccess
  split
  · next t ht => exact .inl ⟨t, ht, rfl⟩
  · next hn => exact .inr ⟨hn, rfl⟩

/-- Everything one step can be: the engine's turn with no input to come, or the next input. -/
theorem step_cases (s t : State) (h : step s = .next t) :
    s.build.wellFormed = true ∧
      ((s.inbox = [] ∧ engineTurn s = .next t) ∨
        ∃ e rest, s.inbox = e :: rest ∧ handle e { s with inbox := rest } = .next t) := by
  unfold step at h
  split at h
  · next hb =>
    refine ⟨hb, ?_⟩
    unfold advance at h
    split at h
    · next he => exact .inl ⟨he, h⟩
    · next e rest he => exact .inr ⟨e, rest, he, h⟩
  · cases h

end Sys2Proof.Machine
end

