-- ==== Sys2Proof/Tests/Slice0.lean ====
section
/-!
SUPPORT. Tests on small states: the checks of WellFormed refuse ill-formed terms, every command word of
spec/30_encoding.md rule R152 decodes, one or two steps of every command, the port, the interrupt and reset;
then a witness for every statement that has hypotheses. Expected values are those of the rules' examples
and of spec/95_test_vectors.md, named at each theorem, never the model's own answers.
-/

namespace Sys2Proof.Tests
open Sys2Proof Sys2Proof.Machine

set_option Elab.async false

/-! ### Helpers -/

/-- The state after a command; the state itself where there is none. -/
def after (i : Instr) (s : State) : State :=
  match exec i s with
  | .next t => t
  | .fault _ => s
  | .refused _ => s

/-- The state after a step; the state itself where there is none. -/
def stepped (s : State) : State :=
  match step s with
  | .next t => t
  | .fault _ => s
  | .refused _ => s

/-- A state in which a command has been accepted. -/
def live (i : Instr) (s : State) : State := accept (encode i) s

/-- A state with bytes placed in the data space, as a `MEM` line of rule R170 does. -/
def put (a : Nat) (bs : List Byte) (s : State) : State := { s with mem := s.mem.writeBytes a bs }

/-- Two operands in `OPA` and `OPB`. -/
def operands (a b : Word) : State := { State.reset with opa := a, opb := b }

/-- A valid key with empty tables, one block at 0x100 and room for another at 0x200. -/
def block : State :=
  { State.reset with keyValid := true, len := 16, srcAddr := 0x100, dstAddr := 0x200 }

/-- The state of program P3 line 14: a 3x1 RGB image of 0x80 at 0x1000, "A" at 0x1100. -/
def image : State :=
  put 0x1000 (List.replicate 9 0x80) (put 0x1100 [0x41]
    { State.reset with
      imgW := 3, imgH := 1, imgC := 3, len := 1, srcAddr := 0x1000, auxAddr := 0x1100, dstAddr := 0x1200 })

/-- Vector D3's image bytes: byte `i` is `17 i mod 256`. -/
def ramp : List Byte := (List.range 24).map fun i => BitVec.ofNat 8 (17 * i)

/-- Vector E1's image: 30x1 RGB, all 00 except pixel 24 = `00 80 FF`. -/
def dotted : List Byte := List.replicate 72 0 ++ [0x00, 0x80, 0xFF] ++ List.replicate 15 0

/-- Entropy as an explicit list of draws (decision D46); 0 past its end. -/
def listed (ds : List Nat) (k n : Nat) : Nat := ds.getD k 0 % n

/-- The affine rows of rule R206 with the last one replaced by the exclusive-or of the first two: singular. -/
def singularRows : Vector Byte 8 := #v[0xF1, 0xE3, 0xC7, 0x8F, 0x1F, 0x3E, 0x7C, 0x12]

/-- A state whose port the platform puts at 0x40000000. -/
def based : State := { State.reset with build := { Build.default with regBase := 0x40000000 } }

/-- A cipher instance of a 16-byte zero key, on a state with one block. -/
def keyed : State := { block with cipher := construct Build.default (List.replicate 16 0) }

/-! ### WellFormed refuses -/

theorem test_wordReservedClear_refuses : wordReservedClear 0x00000101 = false := by decide

theorem test_wordCodeKnown_refuses : wordCodeKnown 0x0000000A = false := by decide

theorem test_wordValid_refuses : wordValid 0x80000005 = false ∧ wordValid 0x00000031 = false := by decide

theorem test_memSizeValid_refuses :
    { Build.default with memSize := 0 }.memSizeValid = false ∧
      { Build.default with memSize := 2 ^ 32 + 1 }.memSizeValid = false := by decide

theorem test_affineInvertible_refuses : affineInvertible singularRows = false := by decide +kernel

theorem test_build_refuses :
    { Build.default with affineRow := singularRows }.wellFormed = false := by decide +kernel

theorem test_step_refuses_singular :
    step { State.reset with build := { Build.default with affineRow := singularRows } } =
      .refused .illegalBuild := by
  rw [step, if_neg]
  · rfl
  · decide +kernel

/-! ### Decoding: each word of R152 written out from its encoding, `RSVD` in bits 31:8, `CMD` in 7:0 -/

theorem test_decode_nop : decode 0b000000000000000000000000_00000000 = .ok .nop := by decide
theorem test_decode_gfPmul : decode 0b000000000000000000000000_00000001 = .ok .gfPmul := by decide
theorem test_decode_gfReduce : decode 0b000000000000000000000000_00000010 = .ok .gfReduce := by decide
theorem test_decode_gfXtime : decode 0b000000000000000000000000_00000011 = .ok .gfXtime := by decide
theorem test_decode_gfMul : decode 0b000000000000000000000000_00000100 = .ok .gfMul := by decide
theorem test_decode_gfInv : decode 0b000000000000000000000000_00000101 = .ok .gfInv := by decide
theorem test_decode_gfAffine : decode 0b000000000000000000000000_00000110 = .ok .gfAffine := by decide
theorem test_decode_gfSbox : decode 0b000000000000000000000000_00000111 = .ok .gfSbox := by decide
theorem test_decode_sboxLookup : decode 0b000000000000000000000000_00001000 = .ok .sboxLookup := by decide
theorem test_decode_invsboxLookup :
    decode 0b000000000000000000000000_00001001 = .ok .invsboxLookup := by decide
theorem test_decode_keyInit : decode 0b000000000000000000000000_00010000 = .ok .keyInit := by decide
theorem test_decode_encBlock : decode 0b000000000000000000000000_00010001 = .ok .encBlock := by decide
theorem test_decode_decBlock : decode 0b000000000000000000000000_00010010 = .ok .decBlock := by decide
theorem test_decode_cbcEnc : decode 0b000000000000000000000000_00010011 = .ok .cbcEnc := by decide
theorem test_decode_cbcDec : decode 0b000000000000000000000000_00010100 = .ok .cbcDec := by decide
theorem test_decode_embed : decode 0b000000000000000000000000_00100000 = .ok .embed := by decide
theorem test_decode_extract : decode 0b000000000000000000000000_00100001 = .ok .extract := by decide
theorem test_decode_noise : decode 0b000000000000000000000000_00110000 = .ok .noise := by decide

/-- Section F of the vectors: a gap, a code past the end, and set reserved bits. -/
theorem test_decode_refuses :
    decode 0x0000000A = .error (.unknownCommand 0x0A) ∧ decode 0x000000FF = .error (.unknownCommand 0xFF) ∧
      decode 0x00000101 = .error .reservedBits ∧ decode 0x80000005 = .error .reservedBits := by decide

theorem test_decodeTableWord :
    decodeTableWord 32 0x00000014 = some .cbcDec ∧ decodeTableWord 32 0x00000114 = none := by decide

/-! ### The field commands: section A.2 of the vectors -/

/-- Upper operand bits are ignored (R155). -/
theorem test_gfPmul :
    (after .gfPmul (operands 0xFFFFFF57 0x12345683)).res = 0x00002B79 ∧
      (after .gfPmul (operands 0xFF 0xFF)).res = 0x00005555 := by decide +kernel

/-- Bit 15 is reduced too (decision D43). -/
theorem test_gfReduce :
    (after .gfReduce (operands 0xABCD2B79 0)).res = 0xC1 ∧
      (after .gfReduce (operands 0xFFFF 0)).res = 0x35 ∧
      (after .gfReduce (operands 0x011B 0)).res = 0 := by decide +kernel

theorem test_gfXtime :
    (after .gfXtime (operands 0x80 0)).res = 0x1B ∧ (after .gfXtime (operands 0x7F 0)).res = 0xFE := by
  decide +kernel

theorem test_gfMul :
    (after .gfMul (operands 0x57 0x83)).res = 0xC1 ∧ (after .gfMul (operands 0x53 0xCA)).res = 0x01 := by
  decide +kernel

theorem test_gfInv :
    (after .gfInv (operands 0x00 0)).res = 0x00 ∧ (after .gfInv (operands 0x53 0)).res = 0xCA := by
  decide +kernel

theorem test_gfAffine :
    (after .gfAffine (operands 0x00 0)).res = 0x63 ∧ (after .gfAffine (operands 0xCA 0)).res = 0xED := by
  decide +kernel

/-- It works without a key; `STATUS` then reads `DONE` alone. -/
theorem test_gfSbox :
    (after .gfSbox (operands 0x53 0)).res = 0xED ∧
      readReg (after .gfSbox (operands 0x53 0)) .status = 0x00000002 := by decide +kernel

/-- R500's example. -/
theorem test_nop :
    after .nop (live .nop State.reset) = { State.reset with done := true, doneIp := true } := rfl

/-! ### The cipher commands: sections A.3, A.4 and B of the vectors -/

/-- "SBOX_LOOKUP after reset": 0x302, `RES` unchanged. -/
theorem test_sboxLookup_noKey :
    readReg (after .sboxLookup { operands 0x53 0 with res := 0xED }) .status = 0x00000302 ∧
      (after .sboxLookup { operands 0x53 0 with res := 0xED }).res = 0xED := by decide +kernel

/-- P1 line 13: `SBOX[0x53] = 0xED`. -/
theorem test_sboxLookup : (after .sboxLookup { keyed with opa := 0x53 }).res = 0xED := by decide +kernel

/-- P1 line 20, on an inverse table that holds its one entry. -/
theorem test_invsboxLookup :
    (after .invsboxLookup
      { block with
        opa := 0xFFFFFFED
        cipher := { Cipher.blank with invSbox := Cipher.blank.invSbox.set 0xED 0x53 } }).res = 0x53 := by
  decide +kernel

/-- `KEY_LEN = 0`, its reset value, fails and leaves the instance. -/
theorem test_keyInit_keyLen :
    readReg (after .keyInit State.reset) .status = 0x00000202 ∧
      (after .keyInit block).keyValid = true ∧ (after .keyInit block).err = 2 := by decide +kernel

theorem test_keyInit_valid :
    readReg (after .keyInit { State.reset with keyLen := 24 }) .status = 0x00000006 := by decide +kernel

/-- The hand check of section B.1: word 4 of the schedule of "testkey123456789". -/
theorem test_schedule_word4 :
    xorWord #v[0x74, 0x65, 0x73, 0x74]
      (scheduleTemp (sboxTable Build.default) rconTable 4 4 1 #v[0x36, 0x37, 0x38, 0x39]) =
      #v[0xEF, 0x62, 0x61, 0x71] := by decide +kernel

/-- `RCON[16] = 2F` and the period of 51. -/
theorem test_rcon :
    rconTable[9] = 0x1B ∧ rconTable[16] = 0x2F ∧ rconTable[51] = 0x8D ∧ rconTable[52] = 0x01 := by
  decide +kernel

/-- The round 1 trace of section B.2, from the S-box's output to the state before MixColumns. -/
theorem test_shiftRows :
    shiftRows .rows
      #v[0x92, 0x43, 0xA3, 0xF5, 0xA8, 0xD0, 0xD2, 0x05, 0x80, 0x80, 0xB2, 0xB2, 0x80, 0x80, 0x05, 0x05] =
      #v[0x92, 0x43, 0xA3, 0xF5, 0xD0, 0xD2, 0x05, 0xA8, 0xB2, 0xB2, 0x80, 0x80, 0x05, 0x80, 0x80, 0x05] := by
  decide +kernel

/-- The same trace, MixColumns. -/
theorem test_mixColumns :
    mixColumns .rows
      #v[0x92, 0x43, 0xA3, 0xF5, 0xD0, 0xD2, 0x05, 0xA8, 0xB2, 0xB2, 0x80, 0x80, 0x05, 0x80, 0x80, 0x05] =
      #v[0xE3, 0xD9, 0x52, 0x97, 0xE1, 0xB1, 0xB2, 0x20, 0x32, 0x75, 0x26, 0x49, 0xC5, 0xBE, 0x60, 0x26] := by
  decide +kernel

/-- Section A.4, first row, with `COLUMNS`: the first row of the state is mixed. -/
theorem test_mixColumns_columns :
    (mixColumns .columns (Block.load [0xDB, 0x13, 0x53, 0x45])).toList.take 4 = [0x8E, 0x4D, 0xA1, 0xBC] ∧
      (invMixColumns .columns (Block.load [0x8E, 0x4D, 0xA1, 0xBC])).toList.take 4 =
        [0xDB, 0x13, 0x53, 0x45] := by decide +kernel

/-- "ENC_BLOCK after reset (no key), LEN = 17" and "LEN = 0" of section B.2. -/
theorem test_encBlock_errors :
    readReg (after .encBlock { State.reset with len := 17 }) .status = 0x00000302 ∧
      readReg (after .encBlock { block with len := 0 }) .status = 0x00000406 ∧
      readReg (after .encBlock { block with dstAddr := 0x108 }) .status = 0x00000B06 := by decide +kernel

/-- In place: the result length and the status. -/
theorem test_encBlock_inPlace :
    (after .encBlock { block with dstAddr := 0x100 }).outLen = 16 ∧
      readReg (after .encBlock { block with dstAddr := 0x100 }) .status = 0x00000006 := by decide +kernel

/-- Section B.2: `0xFFF8 + 16 > MEM_SIZE`. -/
theorem test_decBlock_range :
    readReg (after .decBlock { block with srcAddr := 0xFFF8 }) .status = 0x00000A06 ∧
      (after .decBlock { block with srcAddr := 0xFFF0 }).err = 0 := by decide +kernel

/-! ### The chain commands: section C of the vectors -/

/-- `LEN = 16` at 0xFFF0 needs 32 bytes; `LEN = 0xFFFFFFFF` is out of range. -/
theorem test_cbcEnc_range :
    readReg (after .cbcEnc { block with dstAddr := 0xFFF0 }) .status = 0x00000A06 ∧
      readReg (after .cbcEnc { block with srcAddr := 0, len := 0xFFFFFFFF }) .status = 0x00000A06 := by
  decide +kernel

/-- `OUT_LEN` for "HELLO" and for 19 bytes, and the forbidden overlap. -/
theorem test_cbcEnc_outLen :
    (after .cbcEnc { block with len := 5 }).outLen = 16 ∧
      (after .cbcEnc { block with len := 19 }).outLen = 32 ∧
      (after .cbcEnc { block with len := 5, dstAddr := 0x104 }).err = 11 := by decide +kernel

/-- P2 line 14, and `ERR_NOKEY` first. -/
theorem test_cbcDec_ctLen :
    readReg (after .cbcDec { block with len := 5, outLen := 5 }) .status = 0x00000506 ∧
      (after .cbcDec { block with len := 5, outLen := 5 }).outLen = 5 ∧
      readReg (after .cbcDec { State.reset with len := 5 }) .status = 0x00000302 := by decide +kernel

/-- `LEN = 0` succeeds and writes nothing (decision D28). -/
theorem test_cbcDec_empty :
    (after .cbcDec { block with len := 0, outLen := 7 }).outLen = 0 ∧
      (after .cbcDec { block with len := 0, outLen := 7 }).mem = [] := by decide +kernel

theorem test_pad :
    pad [0x48, 0x45, 0x4C, 0x4C, 0x4F] = [0x48, 0x45, 0x4C, 0x4C, 0x4F] ++ List.replicate 11 0x0B ∧
      pad [] = List.replicate 16 0x10 := by decide +kernel

/-- The last bytes 0B of 16, 1C of 32 and DA of 16. -/
theorem test_unpadLen :
    unpadLen .zero 9 (List.replicate 15 0 ++ [0x0B]) = 5 ∧
      unpadLen .zero 9 (List.replicate 31 0 ++ [0x1C]) = 4 ∧
      unpadLen .zero 9 (List.replicate 15 0 ++ [0xDA]) = 0 := by decide +kernel

/-! ### The codec: section D of the vectors -/

/-- W2 and D1, as P3 line 15 runs it. -/
theorem test_embed_w2 :
    (after .embed image).mem.readBytes 0x1200 9 =
        [0x80, 0x81, 0x80, 0x80, 0x80, 0x80, 0x80, 0x81, 0x80] ∧
      (after .embed image).outLen = 9 := by decide +kernel

/-- D3: four channels, two groups, `BITPOS = 9` clamped to 7. -/
theorem test_embed_d3 :
    embedImage ramp 4 [0x48, 0x69] (clampBitPos 9) =
      [0x00, 0x91, 0x22, 0x33, 0x44, 0xD5, 0x66, 0x77, 0x08, 0x19, 0xAA, 0xBB, 0x4C, 0xDD, 0xEE, 0xFF,
       0x10, 0xA1, 0x32, 0x43, 0x54, 0xE5, 0x76, 0x87] := by decide +kernel

/-- The error cases of section D, in the order of the checks. -/
theorem test_embed_errors :
    (after .embed { image with imgC := 2, len := 0 }).err = 8 ∧
      (after .embed { image with imgW := 0, len := 0 }).err = 9 ∧ (after .embed { image with len := 0 }).err = 6 ∧
      (after .embed { image with len := 2 }).err = 7 ∧
      (after .embed { image with auxAddr := 0x1200 }).err = 11 ∧
      (after .embed { image with auxAddr := 0x1000 }).err = 0 := by decide +kernel

/-- P3 line 19: "A" comes back, and only one byte is written. -/
theorem test_extract_w2 :
    (after .extract
        (put 0x1000 [0x80, 0x81, 0x80, 0x80, 0x80, 0x80, 0x80, 0x81, 0x80]
          (put 0x1200 [0xEE, 0xEE] image))).mem.readBytes 0x1200 2 = [0x41, 0xEE] := by decide +kernel

/-- The images without a payload of section D: exhaustion, an invalid byte, fewer than 3 pixels. -/
theorem test_extract_stops :
    extractImage Build.default (List.replicate 9 0xFF) 3 3 0 10000 = [0xFF] ∧
      extractImage { Build.default with invalidBytes := [0xFF] } (List.replicate 9 0xFF) 3 3 0 10000 = [] ∧
      extractImage Build.default (List.replicate 6 0) 2 3 0 10000 = [] ∧
      extractImage Build.default (List.replicate 9 0) 3 3 0 0 = [] := by decide +kernel

/-! ### Noise: section E of the vectors -/

/-- E1 without its last 996 attempts, all at the protected pixel 0. -/
theorem test_noise_e1 :
    noiseImage (listed [5, 0, 24, 0, 0, 24, 0, 2, 24, 0, 2]) dotted 30 1 3 4 1 24 =
      List.replicate 72 0 ++ [0x02, 0x81, 0xFF] ++ List.replicate 15 0 := by decide +kernel

/-- "`SRC_ADDR = DST_ADDR` gives 0xB02", and E6: `NOISE_MILLI = 0` copies the image. -/
theorem test_noise_command :
    readReg (after .noise { image with dstAddr := 0x1000 }) .status = 0x00000B02 ∧
      (after .noise image).mem.readBytes 0x1200 9 = List.replicate 9 0x80 := by decide +kernel

/-! ### The port, the interrupt, reset and the inputs -/

/-- P1 lines 1 to 3 in three steps' worth of inputs: a write, a start, the completion. -/
theorem test_port_program :
    (stepped (stepped (stepped { State.reset with
      inbox := [.port ⟨true, 0x020, .word, 0x53⟩, .port ⟨true, 0x008, .word, 3⟩, .engine] }))).res = 0xA6 := by
  decide +kernel

/-- R100: the window ends 4 KiB above `REG_BASE`; an access inside it reaches `OPA`. -/
theorem test_host_window :
    (hostAccess ⟨true, 0x40000020, .word, 7⟩ based).opa = 7 ∧
      windowAccess based.build ⟨false, 0x40001000, .word, 0⟩ = none ∧
      windowAccess based.build ⟨false, 0x3FFFFFFF, .word, 0⟩ = none := by decide +kernel

/-- R34 b, R591: a write while busy is dropped and sets `WBUSY_IP`. -/
theorem test_port_busy :
    (portAccess ⟨true, 0x020, .word, 7⟩ (live .nop State.reset)).opa = 0 ∧
      (portAccess ⟨true, 0x020, .word, 7⟩ (live .nop State.reset)).wbusyIp = true := by decide +kernel

/-- R32: bits above the width used read 0. -/
theorem test_port_width :
    readReg (portAccess ⟨true, 0x0A8, .word, 0xFFFFFF04⟩ State.reset) .imgC = 0x04 := by decide +kernel

/-- R110: a halfword access gets a bus error response and 0. -/
theorem test_port_malformed :
    portAccess ⟨false, 0x000, .half, 0⟩ State.reset = { State.reset with portError := true } := rfl

/-- R542, P3 lines 12 and 13: asserted by a completion, cleared by `CLRIRQ`. -/
theorem test_irq :
    irq (after .nop { live .nop State.reset with doneIe := true }) = true ∧
      irq (writeIrqStatus 3 (after .nop { live .nop State.reset with doneIe := true })) = false := by
  decide +kernel

/-- R582: an aborted command does not complete, and bytes outside its write buffers stay. -/
theorem test_reset_aborts :
    (assertReset (live .embed image)).doneIp = false ∧ (assertReset (live .embed image)).imgW = 0 ∧
      (assertReset (live .embed image)).mem.read 0x1100 = 0x41 :=
  ⟨rfl, rfl, (scrambleBuffers_read_outside _ _ _ (by decide +kernel)).trans (by decide +kernel)⟩

/-- R115: a bus error response ends the command with `ERR_BUS` and leaves `OUT_LEN`. -/
theorem test_busError :
    (after .embed { live .embed image with hazard := { busError := true } }).err = 12 ∧
      (after .embed { live .embed image with hazard := { busError := true } }).outLen = 0 := by
  decide +kernel

/-! ### Witnesses: the hypotheses of each statement are met together, one theorem per statement -/

/-- The first and the last code of the command map. -/
theorem witness_DecodeInvertsEncode :
    decode 0x00000000 = .ok .nop ∧ decode 0x00000030 = .ok .noise := by decide

/-- With the engine's turn as the next input, and with no input to come. -/
theorem witness_StepRunsDecodedCommand :
    (live .gfMul State.reset).build.wellFormed = true ∧ (live .gfMul State.reset).busy = true ∧
      (live .gfMul State.reset).inReset = false ∧ decode (live .gfMul State.reset).ctrl = .ok .gfMul ∧
      (live .gfMul State.reset).inbox = [] ∧
      { live .gfMul State.reset with inbox := [.engine] }.inbox = .engine :: [] := by decide +kernel

theorem witness_PlacedWordRunsNext : State.reset.build.wellFormed = true := by decide +kernel

/-- An unknown code, and a known one with a reserved bit set; written, and already accepted. -/
theorem witness_IllegalWordCompletesWithErrCmd :
    (let s : State := { State.reset with inbox := [.port ⟨true, 0x008, .word, 0x101⟩] };
      s.build.wellFormed = true ∧ s.busy = false ∧ s.inReset = false ∧
        s.inbox = [.port ⟨true, 0x008, .word, 0x101⟩]) ∧
    (accept 0x31 State.reset).build.wellFormed = true ∧ (accept 0x31 State.reset).busy = true ∧
      (accept 0x31 State.reset).inReset = false ∧ (accept 0x31 State.reset).inbox = [] ∧
      wordValid (accept 0x31 State.reset).ctrl = false ∧
      wordValid (accept 0x101 State.reset).ctrl = false := by decide +kernel

/-- Idle, busy, and a frozen register. -/
theorem witness_CtrlWriteStartsOrIsIgnored :
    { State.reset with inbox := [.port ⟨true, 0x008, .word, 5⟩] }.build.wellFormed = true ∧
      { State.reset with inbox := [.port ⟨true, 0x008, .word, 5⟩] }.inReset = false ∧
      { State.reset with inbox := [.port ⟨true, 0x008, .word, 5⟩] }.busy = false ∧
      { live .nop State.reset with inbox := [.port ⟨true, 0x008, .word, 5⟩] }.busy = true ∧
      frozenWidth .opa ≠ none := by decide +kernel

theorem witness_BusyBlockCompletes :
    State.reset.build.wellFormed = true ∧ State.reset.inReset = false ∧ State.reset.inbox = [] ∧
      State.reset.busy = false ∧ (live .noise State.reset).busy = true ∧
      (live .noise State.reset).inbox = [] := by decide +kernel

/-- The first address that does not exist and the last one that does. -/
theorem witness_OnlyAbsentAddressesStop :
    State.reset.build.wellFormed = true ∧
      step { State.reset with inbox := [.agentRead 0x10000] } = .fault (.absentAddress 0x10000) ∧
      step { State.reset with inbox := [.agentWrite 0xFFFFFFFF 1] } =
        .fault (.absentAddress 0xFFFFFFFF) ∧
      (stepped { State.reset with inbox := [.agentWrite 0xFFFF 1] }).mem = [(0xFFFF, 1)] := by
  refine ⟨by decide +kernel, ?_, ?_, by decide +kernel⟩ <;> rfl

/-- The first and the last offset of the window, and the addresses on both sides of it. -/
theorem witness_RegisterMapIsExact :
    based.build.wellFormed = true ∧
      { based with inbox := [.host ⟨false, 0x40000000, .word, 0⟩] }.inbox =
        .host ⟨false, 0x40000000, .word, 0⟩ :: [] ∧
      0x40000000 = based.build.regBase + (0x000#12).toNat ∧
      0x40000FFF = based.build.regBase + (0xFFF#12).toNat ∧
      (∀ o : BitVec 12, 0x3FFFFFFF ≠ based.build.regBase + o.toNat) ∧
      ∀ o : BitVec 12, 0x40001000 ≠ based.build.regBase + o.toNat := by
  have hb : based.build.regBase = 0x40000000 := rfl
  refine ⟨by decide +kernel, rfl, rfl, rfl, fun o => ?_, fun o => ?_⟩
  · rw [hb]; omega
  · have := o.isLt
    rw [hb]; omega

/-- One offset for each clause: 32, 16 and 8 bits wide, idle and busy; `CTRL`; `IRQ_EN`; `IRQ_STATUS`; the
first and the last read-only one; the first unmapped one and the last of the port. -/
theorem witness_RegisterWritesFollowAccess :
    State.reset.inReset = false ∧ State.reset.busy = false ∧ (live .nop State.reset).busy = true ∧
      (live .nop State.reset).inReset = false ∧
      (0x020#12).toNat = offsetOf .opa ∧ frozenWidth .opa = some 32 ∧
      (0x05C#12).toNat = offsetOf (.key 7) ∧ frozenWidth (.key 7) = some 32 ∧
      (0x0A0#12).toNat = offsetOf .imgW ∧ frozenWidth .imgW = some 16 ∧
      (0x030#12).toNat = offsetOf .keyLen ∧ frozenWidth .keyLen = some 8 ∧
      (0x008#12).toNat = offsetOf .ctrl ∧ (0x010#12).toNat = offsetOf .irqEn ∧
      (0x014#12).toNat = offsetOf .irqStatus ∧
      (0x000#12).toNat = offsetOf .id ∧ readOnly .id = true ∧
      (0x50C#12).toNat = offsetOf (.rkWin 67) ∧ readOnly (.rkWin 67) = true ∧
      regAt 0x018 = none ∧ regAt 0x510 = none ∧ regAt 0xFFC = none := by decide +kernel

theorem witness_RegisterReadsOnlyAnswer :
    State.reset.inReset = false ∧ (0x000#12).toNat % 4 = 0 ∧ (0x000#12).toNat = offsetOf .id ∧
      (0x50C#12).toNat % 4 = 0 ∧ (0x50C#12).toNat = offsetOf (.rkWin 67) ∧
      (0x510#12).toNat % 4 = 0 ∧ regAt 0x510 = none := by decide

/-- The wrong width at a good offset, and the right width at a bad one. -/
theorem witness_MalformedAccessHasNoEffect :
    ((⟨true, 0x008, .byte, 1⟩ : PortAccess).width ≠ .word) ∧
      (⟨true, 0xFFD, .word, 1⟩ : PortAccess).offset.toNat % 4 ≠ 0 := by decide

theorem witness_StatusFieldsAreInPlace :
    (3 ≤ 3 ∧ 3 < 8) ∧ (3 ≤ 7 ∧ 7 < 8) ∧ (0 < 8 ∧ 7 < 8) ∧ 16 ≤ 16 ∧ 16 ≤ 31 := by decide

/-- No instance; an instance while busy; an instance while idle. -/
theorem witness_TableWindowsShowTheInstance :
    State.reset.keyValid = false ∧ (live .nop block).busy = true ∧ (live .nop block).keyValid = true ∧
      block.keyValid = true ∧ block.busy = false := by decide +kernel

/-- A key register above `KEY_LEN` differs. -/
theorem witness_KeyAndIvArePackedAndKept :
    exec .keyInit { block with keyLen := 16 } = .next (after .keyInit { block with keyLen := 16 }) ∧
      ∀ k, k < (16 : Byte).toNat →
        keyByte { { block with keyLen := 16 } with key := block.key.set 4 7 } k =
          keyByte { block with keyLen := 16 } k :=
  ⟨rfl, by decide +kernel⟩

theorem witness_IrqEnableTakesEffectAtOnce :
    State.reset.inReset = false ∧ (live .nop State.reset).inReset = false := by decide +kernel

theorem witness_PendingBitsSetByEventsClearedByOnes :
    exec .nop (live .nop State.reset) = .next (after .nop (live .nop State.reset)) ∧
      (live .nop State.reset).busy = true ∧ frozenWidth .maxExtract ≠ none ∧
      exec .nop (writeReg .irqStatus 3 (live .nop State.reset)) =
        .next (after .nop (writeReg .irqStatus 3 (live .nop State.reset))) :=
  ⟨rfl, rfl, by decide, rfl⟩

/-- An asserted line that a write of `IRQ_STATUS` clears, by offset and by host address, and one that a reset
clears. -/
theorem witness_InterruptStaysUntilCleared :
    State.reset.inReset = false ∧
      (let s : State :=
        { State.reset with
          doneIp := true, doneIe := true, inbox := [.port ⟨true, 0x014, .word, 1⟩, .resetAssert] };
      step s = .next (stepped s) ∧ irq s = true ∧ irq (stepped s) = false) ∧
      (let s : State :=
        { based with
          doneIp := true, doneIe := true, inbox := [.host ⟨true, 0x40000010, .word, 0⟩] };
      step s = .next (stepped s) ∧ irq s = true ∧ irq (stepped s) = false ∧
        windowAccess s.build ⟨true, 0x40000010, .word, 0⟩ = some ⟨true, 0x010, .word, 0⟩) ∧
      (let s : State := { State.reset with doneIp := true, doneIe := true, inbox := [.resetAssert] };
      step s = .next (stepped s) ∧ irq s = true ∧ irq (stepped s) = false) :=
  ⟨rfl, ⟨rfl, by decide +kernel, by decide +kernel⟩,
    ⟨rfl, by decide +kernel, by decide +kernel, by decide +kernel⟩, rfl, by decide +kernel,
    by decide +kernel⟩

/-- A failed check, and the same command on another data space. -/
theorem witness_ErrorsChangeNothingElse :
    firstError .embed { image with len := 2 } = some .capacity ∧
    exec .embed { image with len := 2 } = .next (after .embed { image with len := 2 }) ∧
      (after .embed { image with len := 2 }).err = 7 ∧
      exec .embed { { image with len := 2 } with mem := [] } =
        .next (after .embed { { image with len := 2 } with mem := [] }) :=
  ⟨by decide +kernel, rfl, by decide +kernel, rfl⟩

/-- A block command; the chain decryption of the least text that makes an access; the response and the
engine's turn as the next two inputs; the first and last byte of the write buffer, and those beside it; and a
chain decryption of no bytes, which makes no access. -/
theorem witness_BusErrorEndsTheCommand :
    (let s : State := { live .encBlock block with hazard := { busError := true } };
      accessesMemory .encBlock = true ∧ firstError .encBlock s = none ∧ s.hazard.readHit = false ∧
        s.hazard.busError = true ∧
        (∃ b ∈ readBuffers .encBlock s ++ writeBuffers .encBlock s, 0 < b.size)) ∧
      (let s : State := { live .cbcDec block with hazard := { writeHits := [0x200] } };
      accessesMemory .cbcDec = true ∧ firstError .cbcDec s = none ∧ s.hazard.readHit = false ∧
        s.hazard.busError = false) ∧
      (let s : State := { live .encBlock block with inbox := [.busError, .engine, .resetAssert] };
      accessesMemory .encBlock = true ∧ firstError .encBlock s = none ∧ s.build.wellFormed = true ∧
        s.busy = true ∧ s.inReset = false ∧ decode s.ctrl = .ok .encBlock ∧
        (∃ b ∈ readBuffers .encBlock s ++ writeBuffers .encBlock s, 0 < b.size) ∧
        s.inbox = .busError :: .engine :: [.resetAssert] ∧ s.hazard.readHit = false ∧
        inBuffers 0x1FF (writeBuffers .encBlock s) = false ∧
        inBuffers 0x200 (writeBuffers .encBlock s) = true ∧
        inBuffers 0x20F (writeBuffers .encBlock s) = true ∧
        inBuffers 0x210 (writeBuffers .encBlock s) = false) ∧
      (let s : State := { live .cbcDec { block with len := 0 } with hazard := { busError := true } };
      accessesMemory .cbcDec = true ∧ firstError .cbcDec s = none ∧ s.hazard.busError = true ∧
        ∀ b ∈ readBuffers .cbcDec s ++ writeBuffers .cbcDec s, b.size = 0) :=
  ⟨⟨rfl, by decide +kernel, rfl, rfl, by decide +kernel⟩, ⟨rfl, by decide +kernel, rfl, rfl⟩,
    ⟨rfl, by decide +kernel, by decide +kernel, rfl, rfl, by decide +kernel, by decide +kernel, rfl, rfl,
    by decide +kernel, by decide +kernel, by decide +kernel, by decide +kernel⟩, rfl, by decide +kernel, rfl, by decide +kernel⟩

/-- A written read buffer, and one written byte of the write buffer; as inputs of a busy block, a write to the
last byte of a read buffer, one to the first byte of the write buffer, one during a command whose check fails
and one during an illegal word; and a bus error response while busy and while idle. -/
theorem witness_DisturbedCommandStillCompletes :
    (let s : State := { live .embed image with hazard := { readHit := true } };
      firstError .embed s = none ∧ s.hazard.busError = false ∧
        exec .embed { s with hazard := {} } = .next (after .embed { s with hazard := {} })) ∧
      (let s : State := { live .embed image with hazard := { writeHits := [0x1208] } };
      firstError .embed s = none ∧ s.hazard.busError = false ∧
        exec .embed { s with hazard := {} } = .next (after .embed { s with hazard := {} }) ∧
        s.hazard.readHit = false ∧ 0x1207 ∉ s.hazard.writeHits ∧ 0x1208 ∈ s.hazard.writeHits ∧
        inBuffers 0x1208 (writeBuffers .embed s) = true ∧
        inBuffers 0x1209 (writeBuffers .embed s) = false ∧ accessesMemory .embed = true) ∧
      (let s : State := live .embed image;
      s.build.wellFormed = true ∧ s.busy = true ∧ (0x1008 : Word).toNat < s.build.memSize ∧
        { s with inbox := [.agentWrite 0x1008 9] }.inbox = .agentWrite 0x1008 9 :: [] ∧
        decode s.ctrl = .ok .embed ∧ inBuffers 0x1008 (readBuffers .embed s) = true ∧
        inBuffers 0x1200 (writeBuffers .embed s) = true) ∧
      (decode (live .embed { image with len := 2 }).ctrl = .ok .embed ∧
        firstError .embed (live .embed { image with len := 2 }) = some .capacity ∧
        decode (accept 0x31 image).ctrl = .error (.unknownCommand 0x31)) ∧
      { live .embed image with inbox := [.busError] }.inbox = .busError :: [] ∧
      { image with inbox := [.busError] }.busy = false :=
  ⟨⟨by decide +kernel, rfl, rfl⟩,
    ⟨by decide +kernel, rfl, rfl, rfl, by decide +kernel, by decide +kernel, by decide +kernel,
      by decide +kernel, rfl⟩, by decide +kernel, by decide +kernel, rfl, by decide +kernel⟩

/-- A busy block, the bytes on both sides of its write buffer, and an idle block. -/
theorem witness_ResetAbortsAndKeepsMemory :
    (let s : State := { live .embed image with inbox := [.resetAssert] };
      s.build.wellFormed = true ∧ s.inbox = .resetAssert :: [] ∧ decode s.ctrl = .ok .embed ∧
        inBuffers 0x11FF (writeBuffers .embed s) = false ∧
        inBuffers 0x1209 (writeBuffers .embed s) = false) ∧
      { image with inbox := [.resetAssert] }.busy = false := by decide +kernel

/-- Right after reset is asserted: the invariant holds, and reset is released next. -/
theorem witness_HeldInResetNothingHappens :
    (assertReset { image with inbox := [.engine, .resetRelease] }).inReset = true ∧
      (assertReset { image with inbox := [.engine, .resetRelease] }).build.wellFormed = true ∧
      (assertReset { image with inbox := [.engine, .resetRelease] }).inbox = .engine :: [.resetRelease] ∧
      Inv (assertReset { image with inbox := [.resetRelease] }) ∧
      (assertReset { image with inbox := [.resetRelease] }).inbox = .resetRelease :: [] := by
  refine ⟨rfl, by decide +kernel, rfl, ?_, rfl⟩
  exact ⟨by decide +kernel, by decide +kernel, by decide +kernel, by decide +kernel, fun _ => rfl,
    fun h => absurd h (by decide +kernel), fun _ => rfl⟩

theorem witness_LookupsReadTheTables :
    State.reset.keyValid = false ∧ keyed.keyValid = true ∧ CipherInstalled keyed :=
  ⟨rfl, rfl, List.replicate 16 0, .inl rfl, rfl⟩

/-- The lengths on each side of a supported one, and the supported ones. -/
theorem witness_KeyInitInstallsOrFails :
    (let s : State := { block with keyLen := 15 };
      s.keyLen ≠ 16 ∧ s.keyLen ≠ 24 ∧ s.keyLen ≠ 32) ∧
      (let s : State := { block with keyLen := 33 };
      s.keyLen ≠ 16 ∧ s.keyLen ≠ 24 ∧ s.keyLen ≠ 32) ∧
      { block with keyLen := 16 }.keyLen = 16 ∧ { block with keyLen := 24 }.keyLen = 24 ∧
      { block with keyLen := 32 }.keyLen = 32 := by decide +kernel

theorem witness_SboxIsBijective : Build.default.wellFormed = true := by decide +kernel

theorem witness_RoundConstantsFollowXtime :
    2 ≤ (2 : Fin 256).val ∧ 2 ≤ (255 : Fin 256).val ∧ 1 ≤ (1 : Fin 205).val ∧ 1 ≤ (204 : Fin 205).val := by
  decide

/-- The last key word, the first derived word and the last word, for each key length. -/
theorem witness_KeyScheduleRecurrence :
    (List.replicate 16 (0 : Byte)).length = 16 ∧ (List.replicate 24 (0 : Byte)).length = 24 ∧
      (List.replicate 32 (0 : Byte)).length = 32 ∧ (3 : Fin 68).val < 16 / 4 ∧ 16 / 4 ≤ (4 : Fin 68).val ∧
      (7 : Fin 68).val < 32 / 4 ∧ 32 / 4 ≤ (8 : Fin 68).val ∧ 32 / 4 ≤ (67 : Fin 68).val := by decide

/-- For each clause a state at a boundary: no key; 17 bytes; one byte past the end; one byte of overlap; in
place with a bus error; and ending at the last byte that exists. -/
theorem witness_EncBlockEffect :
    State.reset.keyValid = false ∧
      (block.keyValid = true ∧ { block with len := 17 }.len ≠ 16) ∧
      (block.len = 16 ∧ ¬Fits block.build.memSize 0xFFF1 16 ∧ Fits block.build.memSize 0xFFF0 16) ∧
      (Fits block.build.memSize 0x100 16 ∧ Fits block.build.memSize 0x10F 16 ∧ ¬Apart 0x100 16 0x10F 16) ∧
      { block with hazard := { busError := true } }.hazard.readHit = false ∧
      (Apart 0x100 16 0x110 16 ∧ Apart 0xFFE0 16 0xFFF0 16 ∧ Undisturbed block) := by
  refine ⟨rfl, by decide +kernel, by decide +kernel, by decide +kernel, rfl, by decide, by decide, rfl⟩

theorem witness_DecBlockEffect :
    (let s : State := { block with srcAddr := 0xFFF0, dstAddr := 0xFFF0 };
      s.keyValid = true ∧ s.len = 16 ∧ Fits s.build.memSize s.srcAddr.toNat 16 ∧
        Fits s.build.memSize s.dstAddr.toNat 16 ∧ s.srcAddr = s.dstAddr ∧ Undisturbed s) ∧
      (let s : State := { block with hazard := { busError := true } };
      s.hazard.busError = true ∧ s.hazard.readHit = false ∧
        Apart s.srcAddr.toNat 16 s.dstAddr.toNat 16) ∧
      ¬Fits block.build.memSize 0xFFF8 16 ∧ ¬Apart 0x100 16 0xF1 16 := by
  refine ⟨⟨rfl, rfl, by decide +kernel, by decide +kernel, rfl, rfl⟩, ⟨rfl, rfl, by decide +kernel⟩,
    by decide +kernel, by decide⟩

/-- 15, 16 and no bytes: the output is 16, 32 and 16 bytes long. The text's and the pad's first and last byte,
and the first and last block. -/
theorem witness_CbcEncEffect :
    (let s : State := { block with len := 15, dstAddr := 0xFFF0 };
      s.keyValid = true ∧ 15 = s.len.toNat ∧ 16 = 15 + (16 - 15 % 16) ∧
        Fits s.build.memSize s.srcAddr.toNat 15 ∧ Fits s.build.memSize s.dstAddr.toNat 16 ∧
        Apart s.srcAddr.toNat 15 s.dstAddr.toNat 16 ∧ Undisturbed s ∧ 16 < 2 ^ 32) ∧
      (32 = 16 + (16 - 16 % 16) ∧ ¬Fits block.build.memSize 0xFFF0 32 ∧
        { block with hazard := { busError := true } }.hazard.busError = true) ∧
      ¬Apart 0x100 5 0x104 16 ∧ (Apart 0x100 0 0x100 16 ∧ 16 = 0 + (16 - 0 % 16)) ∧
      (let p : List Byte := List.replicate 16 0;
      0 < p.length ∧ 15 < p.length ∧ p.length ≤ 16 ∧ 31 < p.length + (16 - p.length % 16) ∧
        16 * 0 < (pad p).length ∧ 16 * 1 < (pad p).length) := by
  refine ⟨⟨rfl, rfl, rfl, by decide +kernel, by decide +kernel, by decide +kernel, rfl, by decide⟩,
    ⟨rfl, by decide +kernel, rfl⟩, by decide, ⟨by decide, rfl⟩, by decide +kernel⟩

/-- No bytes, 17 bytes, and 16 bytes in place; the three shapes of the last byte; the first and the last block
of two. -/
theorem witness_CbcDecEffect :
    (let s : State := { block with dstAddr := 0x100 };
      s.keyValid = true ∧ 16 = s.len.toNat ∧ 16 % 16 = 0 ∧ Fits s.build.memSize s.srcAddr.toNat 16 ∧
        s.srcAddr = s.dstAddr ∧ Undisturbed s) ∧
      (0 = { block with len := 0 }.len.toNat ∧ 0 % 16 = 0) ∧ 17 % 16 ≠ 0 ∧
      { block with hazard := { busError := true } }.hazard.readHit = false ∧
      (1 ≤ (0x10 : Byte).toNat ∧ (0x10 : Byte).toNat ≤ 16) ∧
      ¬(1 ≤ (0x00 : Byte).toNat ∧ (0x00 : Byte).toNat ≤ 16) ∧
      ¬(1 ≤ (0x11 : Byte).toNat ∧ (0x11 : Byte).toNat ≤ 16) ∧
      ((List.replicate 32 (0 : Byte)).length % 16 = 0 ∧ 16 * 0 < (List.replicate 32 (0 : Byte)).length ∧
        16 * 1 < (List.replicate 32 (0 : Byte)).length) := by
  refine ⟨⟨rfl, rfl, rfl, by decide +kernel, rfl, rfl⟩, ⟨rfl, rfl⟩, by decide, rfl, by decide, by decide,
    by decide, by decide⟩

/-- Each error of EMBED in turn, the exact fit, and the bus error. -/
theorem witness_EmbedEffect :
    { image with imgC := 2 }.imgC.toNat < 3 ∧
      (3 ≤ image.imgC.toNat ∧ { image with imgH := 0 }.imgH = 0) ∧
      (0 < 3 * 1 ∧ { image with len := 0 }.len.toNat = 0) ∧
      (0 < { image with len := 2 }.len.toNat ∧ 3 < 3 * { image with len := 2 }.len.toNat) ∧
      (3 = image.imgW.toNat * image.imgH.toNat ∧ 9 = 3 * image.imgC.toNat ∧ 1 = image.len.toNat ∧
        3 * 1 ≤ 3 ∧ ¬Fits image.build.memSize 0xFFF8 9 ∧ Fits image.build.memSize 0xFFF7 9) ∧
      ¬(Apart 0x1000 9 0x1008 9 ∧ Apart 0x1100 1 0x1008 9) ∧
      (Fits image.build.memSize image.srcAddr.toNat 9 ∧ Fits image.build.memSize image.auxAddr.toNat 1 ∧
        Fits image.build.memSize image.dstAddr.toNat 9 ∧
        Apart image.srcAddr.toNat 9 image.dstAddr.toNat 9 ∧
        Apart image.auxAddr.toNat 1 image.dstAddr.toNat 9 ∧ image.build.memSize ≤ 2 ^ 32 ∧
        { image with hazard := { busError := true } }.hazard.readHit = false) ∧
      Undisturbed image ∧ ((0xFFFFFFFD : Word).toInt < 0 ∧ 7 < (8 : Word).toInt ∧ (7 : Word).toInt ≤ 7) := by
  refine ⟨?_, ?_, ?_, ?_, ?_, ?_, ?_, rfl, ?_⟩ <;> decide +kernel

/-- The same for EXTRACT, and a cutoff of 0, whose write buffer is empty. -/
theorem witness_ExtractEffect :
    { image with imgC := 0 }.imgC.toNat < 3 ∧ { image with imgW := 0 }.imgW = 0 ∧
      (3 = image.imgW.toNat * image.imgH.toNat ∧ 9 = 3 * image.imgC.toNat ∧
        1 = min image.maxExtract.toNat (3 / 3) ∧ 3 ≤ image.imgC.toNat ∧ 0 < 3) ∧
      (¬Fits image.build.memSize 0x10000 1 ∧ ¬Apart 0x1000 9 0x1008 1 ∧ Apart 0x1000 9 0x1009 1) ∧
      (Fits image.build.memSize image.srcAddr.toNat 9 ∧ Fits image.build.memSize image.dstAddr.toNat 1 ∧
        Apart image.srcAddr.toNat 9 image.dstAddr.toNat 1 ∧
        { image with hazard := { busError := true } }.hazard.readHit = false) ∧
      (Fits image.build.memSize 0xFFFFFFFF 0 ∧ Apart 0x1000 9 0x1000 0) ∧ Undisturbed image := by
  refine ⟨?_, ?_, ?_, ?_, ?_, ?_, rfl⟩ <;> decide +kernel

theorem witness_NoiseEffect :
    { image with imgC := 2 }.imgC.toNat < 3 ∧ { image with imgW := 0 }.imgW = 0 ∧
      (3 = image.imgW.toNat * image.imgH.toNat ∧ 9 = 3 * image.imgC.toNat ∧ 3 ≤ image.imgC.toNat ∧ 0 < 3) ∧
      (¬Fits image.build.memSize 0xFFF8 9 ∧ ¬Apart 0x1000 9 0x1000 9) ∧
      (Fits image.build.memSize image.srcAddr.toNat 9 ∧ Fits image.build.memSize image.dstAddr.toNat 9 ∧
        Apart image.srcAddr.toNat 9 image.dstAddr.toNat 9 ∧ image.build.memSize ≤ 2 ^ 32 ∧
        { image with hazard := { busError := true } }.hazard.readHit = false) ∧
      Undisturbed image ∧ 0 < 1 := by
  refine ⟨?_, ?_, ?_, ?_, ?_, rfl, by decide⟩ <;> decide +kernel

theorem witness_ClmulIsPolynomialProduct : 0 < 15 ∧ 14 < 15 := by decide

theorem witness_FieldLaws : (1 : Byte) ≠ 0 ∧ (0xFF : Byte) ≠ 0 := by decide

theorem witness_XtimeAndInverse : (0x53 : Byte) ≠ 0 ∧ fmul 0x53 0xCA = 1 := by decide +kernel

/-- With the singular rows some other byte goes where 0 goes. -/
theorem witness_AffineStepBits :
    Build.default.wellFormed = true ∧ affine Build.default 0xCA = affine Build.default 0xCA ∧
      ∃ b : Byte, b ≠ 0 ∧
        affine { Build.default with affineRow := singularRows } b =
          affine { Build.default with affineRow := singularRows } 0 := by
  decide +kernel

theorem witness_BlockRoundTrip :
    Build.default.wellFormed = true ∧ (List.replicate 16 (0 : Byte)).length = 16 ∧
      (List.replicate 24 (0 : Byte)).length = 24 ∧ (List.replicate 32 (0 : Byte)).length = 32 := by
  decide +kernel

/-- The state after CBC_ENC of `keyed`, set up to decrypt the result in place. -/
def decrypting : State :=
  { after .cbcEnc keyed with len := (after .cbcEnc keyed).outLen, srcAddr := 0x200, dstAddr := 0x200 }

theorem witness_CbcRoundTrip :
    keyed.build.wellFormed = true ∧ CipherInstalled keyed ∧ Undisturbed keyed ∧
      exec .cbcEnc keyed = .next (after .cbcEnc keyed) ∧ (after .cbcEnc keyed).err = 0 ∧
      keyed.len.toNat + 16 < 2 ^ 32 ∧ decrypting.build = keyed.build ∧ decrypting.cipher = keyed.cipher ∧
      decrypting.keyValid = true ∧ decrypting.iv = keyed.iv ∧ Undisturbed decrypting ∧
      decrypting.len = (after .cbcEnc keyed).outLen ∧
      decrypting.mem.readBytes decrypting.srcAddr.toNat decrypting.len.toNat =
        (after .cbcEnc keyed).mem.readBytes keyed.dstAddr.toNat (after .cbcEnc keyed).outLen.toNat ∧
      Fits decrypting.build.memSize decrypting.srcAddr.toNat decrypting.len.toNat ∧
      Fits decrypting.build.memSize decrypting.dstAddr.toNat decrypting.len.toNat ∧
      decrypting.srcAddr = decrypting.dstAddr := by
  have he : exec .cbcEnc keyed = .next (after .cbcEnc keyed) := rfl
  refine ⟨by decide +kernel, ⟨List.replicate 16 0, .inl rfl, rfl⟩, rfl, he, by decide +kernel,
    by decide +kernel, rfl, rfl, rfl, rfl, rfl, rfl, rfl, by decide +kernel, by decide +kernel, rfl⟩

/-- The last carrier positions of a 3-pixel image, and a byte of a fourth pixel, which carries nothing. -/
theorem witness_EmbedChangesOnlyCarriedBits :
    3 ≤ 3 ∧ (List.replicate 12 (0x80 : Byte)).length = 4 * 3 ∧ 3 * [(0x41 : Byte)].length ≤ 4 ∧ 7 < 8 ∧
      0 < [(0x41 : Byte)].length ∧ 9 < (List.replicate 12 (0x80 : Byte)).length ∧
      ∀ k, k ≤ 8 → 9 ≠ (3 * 0 + k / 3) * 3 + k % 3 := by decide

/-- The state after EMBED of `image`, set up to extract from its result; `BITPOS` is below 0. -/
def extracting : State :=
  { after .embed image with srcAddr := 0x1200, dstAddr := 0x1300, bitpos := 0xFFFFFFFD, maxExtract := 1 }

theorem witness_EmbedExtractRoundTrip :
    Undisturbed image ∧ exec .embed image = .next (after .embed image) ∧ (after .embed image).err = 0 ∧
      Undisturbed extracting ∧ extracting.imgW = image.imgW ∧ extracting.imgH = image.imgH ∧
      extracting.imgC = image.imgC ∧ clampBitPos extracting.bitpos = clampBitPos image.bitpos ∧
      image.len.toNat ≤ extracting.maxExtract.toNat ∧
      (∀ b ∈ image.mem.readBytes image.auxAddr.toNat image.len.toNat, b ∉ extracting.build.invalidBytes) ∧
      extracting.mem.readBytes extracting.srcAddr.toNat (imgBytes extracting) =
        (after .embed image).mem.readBytes image.dstAddr.toNat (imgBytes image) ∧
      Fits extracting.build.memSize extracting.srcAddr.toNat (imgBytes extracting) ∧
      Fits extracting.build.memSize extracting.dstAddr.toNat (extractRoom extracting) ∧
      Apart extracting.srcAddr.toNat (imgBytes extracting) extracting.dstAddr.toNat
        (extractRoom extracting) := by
  refine ⟨rfl, rfl, ?_, rfl, rfl, rfl, rfl, ?_, ?_, ?_, rfl, ?_, ?_, ?_⟩ <;> decide +kernel

/-- Two characters, the first one with the marker set; the first and the last data position. -/
theorem witness_ExtractStopsForOneReason :
    (extractImage Build.default (List.replicate 9 0xFF ++ List.replicate 9 0x00) 6 3 0 10000).length = 2 ∧
      0 < 8 ∧ 7 < 8 := by
  decide +kernel

/-- One protected pixel before an open one, four channels; a first attempt on the one and on the other, and the
open pixel's third and fourth channel. -/
theorem witness_NoiseProtectsAndClamps :
    (∀ ds k m, 0 < m → listed ds k m < m) ∧ 3 ≤ 4 ∧ 0 < 2 ∧ 0 < 1 ∧
      (List.replicate 8 (0 : Byte)).length = 2 * 1 * 4 ∧ (0 < 1 ∨ 3 ≤ 0) ∧ (1 < 1 ∨ 3 ≤ 3) ∧
      (0 < 1 ∧ 0 = listed [0, 0] 1 1 * 2 + listed [0, 0] 0 2 ∧ 0 < 1) ∧
      (1 = listed [1, 0, 2] 1 1 * 2 + listed [1, 0, 2] 0 2 ∧ 1 ≤ 1) ∧
      (6 < (List.replicate 8 (0 : Byte)).length ∧ 6 / 4 = 1 ∧ 6 % 4 < 3 ∧ 3 ≤ 7 % 4) := by
  refine ⟨fun ds k m h => Nat.mod_lt _ h, ?_, ?_, ?_, rfl, ?_, ?_, ?_, ?_, ?_⟩ <;> decide

theorem witness_CommandFrame :
    exec .embed image = .next (after .embed image) ∧ writesResult .embed = false ∧
      exec .gfMul image = .next (after .gfMul image) ∧ accessesMemory .gfMul = false ∧
      Instr.gfMul ≠ .keyInit :=
  ⟨rfl, rfl, rfl, rfl, by decide⟩

/-- The first and the last byte of the write buffer change. -/
theorem witness_CommandsWriteOnlyTheirBuffers :
    exec .embed image = .next (after .embed image) ∧
      (after .embed image).mem.read 0x1200 ≠ image.mem.read 0x1200 ∧
      (after .embed image).mem.read 0x1208 ≠ image.mem.read 0x1208 :=
  ⟨rfl, by decide +kernel, by decide +kernel⟩

/-- A data space that differs outside the read buffers. -/
theorem witness_ResultsDependOnlyOnReadBuffers :
    (∀ b ∈ readBuffers .embed image, ∀ a, b.start ≤ a → a < b.start + b.size →
        (image.mem.write 0x1009 7).read a = image.mem.read a) ∧
      exec .embed image = .next (after .embed image) ∧
      exec .embed { image with mem := image.mem.write 0x1009 7 } =
        .next (after .embed { image with mem := image.mem.write 0x1009 7 }) := by
  refine ⟨fun b hb a h1 h2 => ?_, rfl, rfl⟩
  rw [Memory.read_write, if_neg]
  rintro rfl
  simp only [readBuffers, List.mem_cons, List.not_mem_nil, or_false] at hb
  obtain rfl | rfl := hb
  · exact absurd h2 (by decide +kernel)
  · exact absurd h1 (by decide +kernel)

theorem witness_BusyFreezesTheBlock : (live .nop State.reset).busy = true := rfl

/-- The last byte that exists, and an idle block; a busy one, with the last byte of its write buffer, the byte
after it, and a command that owns nothing because its check fails. -/
theorem witness_AgentsSeePlainMemoryWhenIdle :
    State.reset.build.wellFormed = true ∧ (0xFFFF : Word).toNat < State.reset.build.memSize ∧
      State.reset.busy = false ∧
      { State.reset with inbox := [.agentWrite 0xFFFF 9] }.inbox = .agentWrite 0xFFFF 9 :: [] ∧
      { State.reset with inbox := [.agentRead 0xFFFF] }.inbox = .agentRead 0xFFFF :: [] ∧
      (let s : State := { live .embed image with inbox := [.agentRead 0x1208] };
      s.build.wellFormed = true ∧ s.busy = true ∧ s.inbox = .agentRead 0x1208 :: [] ∧
        decode s.ctrl = .ok .embed ∧ firstError .embed s = none ∧
        inBuffers (0x1208 : Word).toNat (writeBuffers .embed s) = true ∧
        inBuffers (0x1209 : Word).toNat (writeBuffers .embed s) = false) ∧
      firstError .embed (live .embed { image with len := 2 }) ≠ none := by
  decide +kernel

/-- KEY_INIT completes; reset is asserted; there is no instance. -/
theorem witness_InstanceChangesOnlyByKeyInitOrReset :
    State.reset.keyValid = false ∧
      step (live .keyInit { State.reset with keyLen := 16 }) =
        .next (stepped (live .keyInit { State.reset with keyLen := 16 })) ∧
      step { keyed with inbox := [.resetAssert] } =
        .next (stepped { keyed with inbox := [.resetAssert] }) :=
  ⟨rfl, rfl, rfl⟩

theorem witness_BuildIsFixedAndInputsAreConsumed :
    step { State.reset with inbox := [.engine, .busError] } =
      .next (stepped { State.reset with inbox := [.engine, .busError] }) := rfl

/-- The invariant holds in a state that a step leaves for another. -/
theorem witness_StepKeepsInvariant :
    Inv { image with inbox := [.port ⟨true, 0x008, .word, 0x20⟩] } ∧
      step { image with inbox := [.port ⟨true, 0x008, .word, 0x20⟩] } =
        .next (stepped { image with inbox := [.port ⟨true, 0x008, .word, 0x20⟩] }) := by
  refine ⟨⟨?_, ?_, ?_, ?_, fun _ => rfl, fun h => absurd h ?_, fun h => absurd h ?_⟩, rfl⟩ <;>
    decide +kernel

end Sys2Proof.Tests
end

section
/-!
What every step keeps and what it consumes: the build's parameters stay and the inputs to come lose the one
handled (spec/00_scope.md rule R6, spec/10_state.md rule R30). Each operation's lemma pairs the two fields, so
that `simp` rewrites with both; only `advance` touches the list of inputs.
-/

namespace Sys2Proof.Machine

/-! ### Commands -/

/-- The ends of a command: an error of its checks, or after them its success, by the kind of command. -/
theorem exec_cases (i : Instr) (s t : State) (h : exec i s = .next t) :
    (∃ e, firstError i s = some e ∧ t = complete e s) ∨
      (firstError i s = none ∧
        ((i = .nop ∧ t = complete .ok s) ∨
          (writesResult i = true ∧ ∃ v, t = complete .ok { s with res := v }) ∨
          (i = .keyInit ∧
            t = complete .ok { s with cipher := construct s.build (keyBytes s), keyValid := true }) ∨
          (accessesMemory i = true ∧ ∃ r, t = finishMemory i r s))) := by
  cases i
  case nop => exact .inr ⟨rfl, .inl ⟨rfl, (Host.Outcome.next.inj h).symm⟩⟩
  case gfPmul | gfReduce | gfXtime | gfMul | gfInv | gfAffine | gfSbox =>
    exact .inr ⟨rfl, .inr (.inl ⟨rfl, _, (Host.Outcome.next.inj h).symm⟩)⟩
  case sboxLookup | invsboxLookup =>
    exact (lookupCommand_cases _ _ s t h).imp_right fun ⟨hc, ht⟩ => ⟨hc, .inr (.inl ⟨rfl, _, ht⟩)⟩
  case keyInit =>
    exact (execKeyInit_cases s t h).imp_right fun ⟨hc, ht⟩ => ⟨hc, .inr (.inr (.inl ⟨rfl, ht⟩))⟩
  case encBlock | decBlock | cbcEnc | cbcDec | embed | extract | noise =>
    exact (memoryCommand_cases _ _ s t h).imp_right fun ⟨hc, ht⟩ =>
      ⟨hc, .inr (.inr (.inr ⟨rfl, _, ht⟩))⟩

@[simp] theorem finishMemory_build_inbox (i : Instr) (r : State → MemResult) (s : State) :
    (finishMemory i r s).build = s.build ∧ (finishMemory i r s).inbox = s.inbox := by
  rw [finishMemory_frame]
  exact ⟨rfl, rfl⟩

theorem exec_build_inbox (i : Instr) (s t : State) (h : exec i s = .next t) :
    t.build = s.build ∧ t.inbox = s.inbox := by
  obtain ⟨e, -, rfl⟩ | ⟨-, ⟨-, rfl⟩ | ⟨-, v, rfl⟩ | ⟨-, rfl⟩ | ⟨-, r, rfl⟩⟩ := exec_cases i s t h
  all_goals simp

theorem engineTurn_build_inbox (s t : State) (h : engineTurn s = .next t) :
    t.build = s.build ∧ t.inbox = s.inbox := by
  obtain ⟨-, hrun⟩ | ⟨-, rfl⟩ := engineTurn_cases s t h
  · obtain ⟨i, -, hexec⟩ | ⟨e, -, rfl⟩ := runCommand_cases s t hrun
    · exact exec_build_inbox i s t hexec
    · simp
  · exact ⟨rfl, rfl⟩

/-! ### The register port and its window -/

theorem writeFrozen_build_inbox (s t : State) (h : t.build = s.build ∧ t.inbox = s.inbox) :
    (writeFrozen s t).build = s.build ∧ (writeFrozen s t).inbox = s.inbox := by
  unfold writeFrozen
  split
  · simp
  · exact h

@[simp] theorem writeReg_build_inbox (r : Reg) (v : Word) (s : State) :
    (writeReg r v s).build = s.build ∧ (writeReg r v s).inbox = s.inbox := by
  cases r
  case irqEn | irqStatus | id | version | status | res | outLen | sboxWin | invsboxWin | rconWin
    | rkWin =>
    exact ⟨rfl, rfl⟩
  all_goals exact writeFrozen_build_inbox s _ ⟨rfl, rfl⟩

/-- What a port access can do: an answer only, or the write of the register at its offset. -/
theorem portAccess_cases (a : PortAccess) (s : State) :
    (∃ data error, portAccess a s = answer data error s) ∨
      (wellFormedAccess a = true ∧ s.inReset = false ∧ a.write = true ∧
        ∃ r, regAt a.offset = some r ∧ portAccess a s = answer 0 false (writeReg r a.data s)) := by
  unfold portAccess
  split
  · exact .inl ⟨_, _, rfl⟩
  next hwf =>
  split
  · exact .inl ⟨_, _, rfl⟩
  next hreset =>
  split
  · exact .inl ⟨_, _, rfl⟩
  next r hreg =>
  split
  · next hwrite => exact .inr ⟨by simpa using hwf, by simpa using hreset, hwrite, r, hreg, rfl⟩
  · exact .inl ⟨_, _, rfl⟩

@[simp] theorem portAccess_build_inbox (a : PortAccess) (s : State) :
    (portAccess a s).build = s.build ∧ (portAccess a s).inbox = s.inbox := by
  obtain ⟨data, error, hp⟩ | ⟨-, -, -, r, -, hp⟩ := portAccess_cases a s
  · simp [hp]
  · simp [hp]

@[simp] theorem hostAccess_build_inbox (a : HostAccess) (s : State) :
    (hostAccess a s).build = s.build ∧ (hostAccess a s).inbox = s.inbox := by
  obtain ⟨p, -, hp⟩ | ⟨-, hs⟩ := hostAccess_cases a s
  · simp [hp]
  · simp [hs]

/-! ### The other inputs -/

@[simp] theorem noteBusError_build_inbox (s : State) :
    (noteBusError s).build = s.build ∧ (noteBusError s).inbox = s.inbox := by
  unfold noteBusError
  split <;> exact ⟨rfl, rfl⟩

@[simp] theorem agentWriteByte_build_inbox (a : Nat) (v : Byte) (s : State) :
    (agentWriteByte a v s).build = s.build ∧ (agentWriteByte a v s).inbox = s.inbox := ⟨rfl, rfl⟩

@[simp] theorem agentReadByte_build_inbox (a : Nat) (s : State) :
    (agentReadByte a s).build = s.build ∧ (agentReadByte a s).inbox = s.inbox := by
  unfold agentReadByte
  split <;> exact ⟨rfl, rfl⟩

@[simp] theorem assertReset_build_inbox (s : State) :
    (assertReset s).build = s.build ∧ (assertReset s).inbox = s.inbox := by
  rw [assertReset, scrambleBuffers_frame]
  simp

/-! ### Steps -/

/-- An outcome guarded by the existence of an address is a next state only where it exists (R100). -/
theorem next_of_guarded {c : Prop} [Decidable c] {f : Fault} {u t : State}
    (h : (if c then Host.Outcome.next u else .fault f) = (.next t : Host.Outcome State Fault Refusal)) :
    c ∧ t = u := by
  split at h
  · next hc => exact ⟨hc, (Host.Outcome.next.inj h).symm⟩
  · cases h

/-- No input touches the build or the inputs after it. -/
theorem handle_build_inbox (e : Event) (s t : State) (h : handle e s = .next t) :
    t.build = s.build ∧ t.inbox = s.inbox := by
  cases e with
  | port a => cases h; simp
  | host a => cases h; simp
  | engine => exact engineTurn_build_inbox s t h
  | busError => cases h; simp
  | agentWrite a v =>
    obtain ⟨-, rfl⟩ := next_of_guarded h
    simp
  | agentRead a =>
    obtain ⟨-, rfl⟩ := next_of_guarded h
    simp
  | resetAssert => cases h; simp
  | resetRelease => cases h; simp

/-- Settles O58: the input's own effect keeps both fields, so only its removal from the list remains. -/
theorem buildIsFixedAndInputsAreConsumed : Obligations.BuildIsFixedAndInputsAreConsumed := by
  unfold Obligations.BuildIsFixedAndInputsAreConsumed
  intro s t h
  obtain ⟨-, ⟨hnil, hturn⟩ | ⟨e, rest, hcons, hhandle⟩⟩ := step_cases s t h
  · have ⟨hbuild, hinbox⟩ := engineTurn_build_inbox s t hturn
    exact ⟨hbuild, by rw [hinbox, hnil, List.tail_nil]⟩
  · have ⟨hbuild, hinbox⟩ := handle_build_inbox e { s with inbox := rest } t hhandle
    exact ⟨hbuild, by rw [hinbox, hcons, List.tail_cons]⟩

end Sys2Proof.Machine
end

section
/-!
The cipher tables (spec/10_state.md rule R40): which operations keep them and `KEY_VALID`, and the
frame of a completed command (R36, R39). Each operation's lemma pairs the tables with their flag, so that a
step's statement is the case split over its inputs with these lemmas.
-/

namespace Sys2Proof.Machine

/-! ### Commands -/

theorem memoryCommand_of_firstError (i : Instr) (r : State → MemResult) (s : State) (e : ErrCode)
    (h : firstError i s = some e) : memoryCommand i r s = .next (complete e s) := by
  rw [memoryCommand, h]

theorem lookupCommand_of_firstError (i : Instr) (tab : Vector Byte 256) (s : State) (e : ErrCode)
    (h : firstError i s = some e) : lookupCommand i tab s = .next (complete e s) := by
  rw [lookupCommand, h]

/-- A command whose check fails completes with that check's code, whichever command it is (R520). -/
theorem exec_of_firstError (i : Instr) (s : State) (e : ErrCode) (h : firstError i s = some e) :
    exec i s = .next (complete e s) := by
  cases i
  case nop | gfPmul | gfReduce | gfXtime | gfMul | gfInv | gfAffine | gfSbox => cases h
  case sboxLookup | invsboxLookup => exact lookupCommand_of_firstError _ _ s e h
  case keyInit => rw [exec, execKeyInit, h]
  case encBlock | decBlock | cbcEnc | cbcDec | embed | extract | noise =>
    exact memoryCommand_of_firstError _ _ s e h

/-- Settles O52: each of the four ends of a command changes the fields of its own kind only. -/
theorem commandFrame : Obligations.CommandFrame := by
  unfold Obligations.CommandFrame
  intro i s t h
  obtain ⟨e, -, rfl⟩ | ⟨-, ⟨rfl, rfl⟩ | ⟨hres, v, rfl⟩ | ⟨rfl, rfl⟩ | ⟨hmem, r, rfl⟩⟩ :=
    exec_cases i s t h
  · exact ⟨rfl, fun _ => rfl, fun _ => ⟨rfl, rfl, rfl⟩, fun _ => ⟨rfl, rfl⟩⟩
  · exact ⟨rfl, fun _ => rfl, fun _ => ⟨rfl, rfl, rfl⟩, fun _ => ⟨rfl, rfl⟩⟩
  · refine ⟨rfl, fun hno => ?_, fun _ => ⟨rfl, rfl, rfl⟩, fun _ => ⟨rfl, rfl⟩⟩
    simp [hres] at hno
  · exact ⟨rfl, fun _ => rfl, fun _ => ⟨rfl, rfl, rfl⟩, fun hne => absurd rfl hne⟩
  · rw [finishMemory_frame]
    refine ⟨rfl, fun _ => rfl, fun hno => ?_, fun _ => ⟨rfl, rfl⟩⟩
    simp [hmem] at hno

/-- KEY_INIT passes its one check exactly with a supported key length (R260). -/
theorem firstError_keyInit_eq_none_iff (s : State) :
    firstError .keyInit s = none ↔ s.keyLen = 16 ∨ s.keyLen = 24 ∨ s.keyLen = 32 := by
  simp only [firstError_none_iff, checks, List.mem_singleton, forall_eq, Bool.and_eq_false_iff,
    bne_eq_false_iff_eq, or_assoc]

/-- A command keeps the cipher tables, or it is a KEY_INIT of a supported length, which replaces it. -/
theorem exec_cipher_keyValid (i : Instr) (s t : State) (h : exec i s = .next t) :
    (t.cipher = s.cipher ∧ t.keyValid = s.keyValid) ∨
      (i = .keyInit ∧ (s.keyLen = 16 ∨ s.keyLen = 24 ∨ s.keyLen = 32) ∧ t.keyValid = true ∧
        t.cipher = construct s.build (keyBytes s)) := by
  by_cases hi : i = .keyInit
  · subst hi
    obtain ⟨e, -, rfl⟩ | ⟨hlen, rfl⟩ := execKeyInit_cases s t h
    · exact .inl ⟨rfl, rfl⟩
    · exact .inr ⟨rfl, (firstError_keyInit_eq_none_iff s).mp hlen, rfl, rfl⟩
  · obtain ⟨-, -, -, hkept⟩ := commandFrame i s t h
    exact .inl (hkept hi)

/-- The engine's turn keeps the cipher tables, or it completes a KEY_INIT of a supported length. -/
theorem engineTurn_cipher_keyValid (s t : State) (h : engineTurn s = .next t) :
    (t.cipher = s.cipher ∧ t.keyValid = s.keyValid) ∨
      (s.busy = true ∧ decode s.ctrl = .ok .keyInit ∧
        (s.keyLen = 16 ∨ s.keyLen = 24 ∨ s.keyLen = 32) ∧ t.keyValid = true ∧
        t.cipher = construct s.build (keyBytes s)) := by
  obtain ⟨⟨hbusy, -⟩, hrun⟩ | ⟨-, rfl⟩ := engineTurn_cases s t h
  · obtain ⟨i, hdecode, hexec⟩ | ⟨e, -, rfl⟩ := runCommand_cases s t hrun
    · refine (exec_cipher_keyValid i s t hexec).imp_right fun ⟨hi, hlen, hvalid, htables⟩ => ?_
      exact ⟨hbusy, hi ▸ hdecode, hlen, hvalid, htables⟩
    · exact .inl ⟨rfl, rfl⟩
  · exact .inl ⟨rfl, rfl⟩

/-! ### The inputs other than the engine's turn -/

theorem writeFrozen_cipher_keyValid (s t : State) (h : t.cipher = s.cipher ∧ t.keyValid = s.keyValid) :
    (writeFrozen s t).cipher = s.cipher ∧ (writeFrozen s t).keyValid = s.keyValid := by
  unfold writeFrozen
  split
  · simp
  · exact h

@[simp] theorem writeReg_cipher_keyValid (r : Reg) (v : Word) (s : State) :
    (writeReg r v s).cipher = s.cipher ∧ (writeReg r v s).keyValid = s.keyValid := by
  cases r
  case irqEn | irqStatus | id | version | status | res | outLen | sboxWin | invsboxWin | rconWin
    | rkWin =>
    exact ⟨rfl, rfl⟩
  all_goals exact writeFrozen_cipher_keyValid s _ ⟨rfl, rfl⟩

@[simp] theorem portAccess_cipher_keyValid (a : PortAccess) (s : State) :
    (portAccess a s).cipher = s.cipher ∧ (portAccess a s).keyValid = s.keyValid := by
  obtain ⟨data, error, hp⟩ | ⟨-, -, -, r, -, hp⟩ := portAccess_cases a s
  · simp [hp]
  · simp [hp]

@[simp] theorem hostAccess_cipher_keyValid (a : HostAccess) (s : State) :
    (hostAccess a s).cipher = s.cipher ∧ (hostAccess a s).keyValid = s.keyValid := by
  obtain ⟨p, -, hp⟩ | ⟨-, hs⟩ := hostAccess_cases a s
  · simp [hp]
  · simp [hs]

@[simp] theorem noteBusError_cipher_keyValid (s : State) :
    (noteBusError s).cipher = s.cipher ∧ (noteBusError s).keyValid = s.keyValid := by
  unfold noteBusError
  split <;> exact ⟨rfl, rfl⟩

@[simp] theorem agentReadByte_cipher_keyValid (a : Nat) (s : State) :
    (agentReadByte a s).cipher = s.cipher ∧ (agentReadByte a s).keyValid = s.keyValid := by
  unfold agentReadByte
  split <;> exact ⟨rfl, rfl⟩

/-! ### Steps -/

/-- What one input does to the cipher tables: nothing, unless it is the engine's turn or a reset. -/
theorem handle_cipher_keyValid (e : Event) (s t : State) (h : handle e s = .next t) :
    (t.cipher = s.cipher ∧ t.keyValid = s.keyValid) ∨ (e = .engine ∧ engineTurn s = .next t) ∨
      (e = .resetAssert ∧ t.keyValid = false) := by
  cases e with
  | engine => exact .inr (.inl ⟨rfl, h⟩)
  | resetAssert => cases h; exact .inr (.inr ⟨rfl, rfl⟩)
  | port a => cases h; exact .inl (portAccess_cipher_keyValid a s)
  | host a => cases h; exact .inl (hostAccess_cipher_keyValid a s)
  | busError => cases h; exact .inl (noteBusError_cipher_keyValid s)
  | agentWrite a v =>
    obtain ⟨-, rfl⟩ := next_of_guarded h
    exact .inl ⟨rfl, rfl⟩
  | agentRead a =>
    obtain ⟨-, rfl⟩ := next_of_guarded h
    exact .inl (agentReadByte_cipher_keyValid a.toNat s)
  | resetRelease => cases h; exact .inl ⟨rfl, rfl⟩

/-- The commands that need the tables check `KEY_VALID` first (R40, R522). -/
theorem firstError_noKey (i : Instr) (s : State) (hkey : s.keyValid = false)
    (hi : i ∈ [Instr.sboxLookup, .invsboxLookup, .encBlock, .decBlock, .cbcEnc, .cbcDec]) :
    firstError i s = some .noKey := by
  cases i
  case sboxLookup | invsboxLookup | encBlock | decBlock | cbcEnc | cbcDec =>
    simp [firstError, checks, hkey]
  all_goals simp at hi

/-- Settles O57: of the inputs only the engine's turn and a reset touch the tables, and of the commands
only a KEY_INIT that passes its check. -/
theorem instanceChangesOnlyByKeyInitOrReset : Obligations.InstanceChangesOnlyByKeyInitOrReset := by
  unfold Obligations.InstanceChangesOnlyByKeyInitOrReset
  refine ⟨fun s t h => ?_, fun i s hkey hi => exec_of_firstError i s _ (firstError_noKey i s hkey hi)⟩
  obtain ⟨-, ⟨-, hturn⟩ | ⟨e, rest, hcons, hhandle⟩⟩ := step_cases s t h
  · exact (engineTurn_cipher_keyValid s t hturn).imp_right .inl
  · obtain hkept | ⟨-, hturn⟩ | ⟨he, hcleared⟩ := handle_cipher_keyValid e _ t hhandle
    · exact .inl hkept
    · exact (engineTurn_cipher_keyValid _ t hturn).imp_right .inl
    · exact .inr (.inr ⟨⟨rest, he ▸ hcons⟩, hcleared⟩)

end Sys2Proof.Machine
end

section
/-!
The register port (spec/10_state.md rules R32 to R35): the register map is exact, and what a port access by a
register's offset, or by an unmapped one, does.
-/

namespace Sys2Proof.Machine

/-! ### The register map (R32) -/

theorem offsetOf_mod_four (r : Reg) : offsetOf r % 4 = 0 := by
  cases r
  case key | iv | sboxWin | invsboxWin | rconWin | rkWin => simp only [offsetOf]; omega
  all_goals rfl

theorem regAtWord_offsetOf (r : Reg) : regAtWord (offsetOf r / 4) = some r := by
  cases r
  case key | iv | sboxWin | invsboxWin | rconWin | rkWin => grind [regAtWord, offsetOf]
  all_goals rfl

theorem offsetOf_of_scalarAt (n : Nat) (r : Reg) (h : scalarAt n = some r) : offsetOf r = 4 * n := by
  unfold scalarAt at h
  split at h <;> cases h <;> rfl

theorem offsetOf_of_regAtWord (n : Nat) (r : Reg) (h : regAtWord n = some r) : offsetOf r = 4 * n := by
  unfold regAtWord at h
  split_ifs at h
  case neg => exact offsetOf_of_scalarAt n r h
  all_goals
    cases h
    simp only [offsetOf]
    omega

theorem regAt_eq_some_iff (o : BitVec 12) (r : Reg) : regAt o = some r ↔ o.toNat = offsetOf r := by
  have hmod := offsetOf_mod_four r
  rw [regAt, Option.ite_none_right_eq_some]
  constructor
  · rintro ⟨haligned, hreg⟩
    have := offsetOf_of_regAtWord _ r hreg
    omega
  · intro ho
    rw [ho]
    exact ⟨hmod, regAtWord_offsetOf r⟩

theorem regAt_eq_none_iff (o : BitVec 12) : regAt o = none ↔ ∀ r, o.toNat ≠ offsetOf r := by
  simp only [Option.eq_none_iff_forall_ne_some, ne_eq, regAt_eq_some_iff]

/-! ### The window in the host's map (R100) -/

/-- With a legal build a step handles the next input. -/
theorem step_of_input (s : State) (e : Event) (rest : List Event) (hbuild : s.build.wellFormed = true)
    (hinbox : s.inbox = e :: rest) : step s = handle e { s with inbox := rest } := by
  rw [step, if_pos hbuild, advance, hinbox]

section
variable (s : State) (w : Bool) (a : Nat) (k : AccessWidth) (d : Word)

theorem hostAccess_at_offset (o : BitVec 12) (ha : a = s.build.regBase + o.toNat) :
    hostAccess ⟨w, a, k, d⟩ s = portAccess ⟨w, o, k, d⟩ s := by
  have hwindow : windowAccess s.build ⟨w, a, k, d⟩ = some ⟨w, o, k, d⟩ :=
    (windowAccess_eq_some_iff _ _ _).mpr ⟨ha, rfl⟩
  rw [hostAccess, hwindow]

theorem hostAccess_outside_window (ha : ∀ o : BitVec 12, a ≠ s.build.regBase + o.toNat) :
    hostAccess ⟨w, a, k, d⟩ s = s := by
  obtain ⟨t, ht, -⟩ | ⟨-, hs⟩ := hostAccess_cases ⟨w, a, k, d⟩ s
  · exact absurd ((windowAccess_eq_some_iff _ _ _).mp ht).1 (ha t.offset)
  · exact hs

end

/-- Settles O10: the map is exact in both directions, and the window adds `REG_BASE` to an offset. -/
theorem registerMapIsExact : Obligations.RegisterMapIsExact := by
  unfold Obligations.RegisterMapIsExact
  refine ⟨by simp [offsetOf], regAt_eq_some_iff, fun s w a k d rest hbuild hinbox => ?_⟩
  have hstep : step s = .next (hostAccess ⟨w, a, k, d⟩ { s with inbox := rest }) :=
    step_of_input s _ rest hbuild hinbox
  refine ⟨fun o ha => ?_, fun ha => ?_⟩
  · have hport : step { s with inbox := .port ⟨w, o, k, d⟩ :: rest } =
        .next (portAccess ⟨w, o, k, d⟩ { s with inbox := rest }) :=
      step_of_input { s with inbox := .port ⟨w, o, k, d⟩ :: rest } _ rest hbuild rfl
    rw [hostAccess_at_offset { s with inbox := rest } w a k d o ha] at hstep
    exact ⟨hstep, hstep.trans hport.symm⟩
  · rw [hstep, hostAccess_outside_window { s with inbox := rest } w a k d ha]

/-! ### What a port access does, by the register it names (R32, R34, R35) -/

section
variable (s : State) (o : BitVec 12) (v : Word)

/-- Out of reset an aligned 32-bit write is the write of the register at its offset. -/
theorem portAccess_write_of_offset (r : Reg) (hreset : s.inReset = false) (ho : o.toNat = offsetOf r) :
    portAccess ⟨true, o, .word, v⟩ s = answer 0 false (writeReg r v s) := by
  simp [portAccess, wellFormedAccess, hreset, ho, offsetOf_mod_four, (regAt_eq_some_iff o r).mpr ho]

/-- Out of reset an aligned 32-bit read answers the register at its offset. -/
theorem portAccess_read_of_offset (r : Reg) (hreset : s.inReset = false) (ho : o.toNat = offsetOf r) :
    portAccess ⟨false, o, .word, v⟩ s = answer (readReg s r) false s := by
  simp [portAccess, wellFormedAccess, hreset, ho, offsetOf_mod_four, (regAt_eq_some_iff o r).mpr ho]

/-- An unmapped offset reads 0 and ignores writes (R32). -/
theorem portAccess_unmapped (write : Bool) (hreset : s.inReset = false) (haligned : o.toNat % 4 = 0)
    (ho : ∀ r, o.toNat ≠ offsetOf r) : portAccess ⟨write, o, .word, v⟩ s = answer 0 false s := by
  simp [portAccess, wellFormedAccess, hreset, haligned, (regAt_eq_none_iff o).mpr ho]

end

/-! ### The effect of a register write (R34) -/

section
variable (r : Reg) (v : Word) (s : State)

theorem writeFrozen_of_idle (t : State) (hidle : s.busy = false) : writeFrozen s t = t := by
  simp [writeFrozen, hidle]

theorem writeFrozen_of_busy (t : State) (hbusy : s.busy = true) : writeFrozen s t = ignoredWrite s := by
  simp [writeFrozen, hbusy]

/-- What a write of a frozen register stores, where it is not ignored: the written bits of the register's
width with zeros above them, and nothing that another register or the data space shows. -/
theorem writeReg_eq_writeFrozen (w : Nat) (hr : frozenWidth r = some w) :
    ∃ t, writeReg r v s = writeFrozen s t ∧ t.mem = s.mem ∧ (readReg t r).toNat = v.toNat % 2 ^ w ∧
      ∀ q, q ≠ r → readReg t q = readReg s q := by
  have hv := v.isLt
  cases r <;> cases hr
  all_goals refine ⟨_, rfl, rfl, by simp [readReg]; omega, fun q hq => ?_⟩
  case key k =>
    cases q
    case key l => exact Vector.getElem_set_ne k.isLt l.isLt (by grind)
    all_goals rfl
  case iv k =>
    cases q
    case iv l => exact Vector.getElem_set_ne k.isLt l.isLt (by grind)
    all_goals rfl
  all_goals cases q <;> trivial

theorem writeReg_of_readOnly (hr : readOnly r = true) : writeReg r v s = s := by
  cases r
  case id | version | status | res | outLen | sboxWin | invsboxWin | rconWin | rkWin => rfl
  all_goals cases hr

end

/-- The port's answer is no register. -/
theorem readReg_answer (data : Word) (error : Bool) (s : State) (r : Reg) :
    readReg (answer data error s) r = readReg s r := by
  cases r <;> rfl

/-- Settles O11: one write of a register at its offset, by the register's access. -/
theorem registerWritesFollowAccess : Obligations.RegisterWritesFollowAccess := by
  unfold Obligations.RegisterWritesFollowAccess
  intro s o v hreset haligned
  have hwrite := fun r => portAccess_write_of_offset s o v r hreset
  refine ⟨fun r w ho hr hidle => ?_, fun r w ho hr hbusy => ?_,
    fun ho => ⟨fun hidle => ?_, fun hbusy => ?_⟩, hwrite .irqEn, hwrite .irqStatus, ?_⟩
  · obtain ⟨t, hstored, hmem, hself, hother⟩ := writeReg_eq_writeFrozen r v s w hr
    have hcipher := (writeReg_cipher_keyValid r v s).1
    rw [hstored, writeFrozen_of_idle s t hidle] at hcipher
    rw [hwrite r ho, hstored, writeFrozen_of_idle s t hidle]
    simp only [readReg_answer, answer_mem, answer_cipher]
    exact ⟨hself, hother, hmem, hcipher⟩
  · obtain ⟨t, hstored, -⟩ := writeReg_eq_writeFrozen r v s w hr
    rw [hwrite r ho, hstored, writeFrozen_of_busy s t hbusy]
    rfl
  · rw [hwrite .ctrl ho, writeReg, writeFrozen_of_idle s _ hidle]
    rfl
  · rw [hwrite .ctrl ho, writeReg, writeFrozen_of_busy s _ hbusy]
    rfl
  · rintro (⟨r, ho, hr⟩ | hunmapped)
    · rw [hwrite r ho, writeReg_of_readOnly r v s hr]
      rfl
    · exact portAccess_unmapped s o v true hreset haligned hunmapped

/-! ### What a register reads (R32, R33, R35) -/

/-- A flag stands at its own bit and nowhere else. -/
theorem getLsbD_flagBit (b : Bool) (k n : Nat) (hk : k < 32) :
    (flagBit b k).getLsbD n = (decide (n = k) && b) := by
  by_cases h : n = k
  · simp [flagBit, h, hk]
  · simp [flagBit, h]; omega

/-- Each bit of `STATUS` as one formula (R33). -/
theorem getLsbD_statusWord (s : State) (k : Nat) :
    (statusWord s).getLsbD k =
      ((decide (k = 0) && s.busy) || (decide (k = 1) && s.done) || (decide (k = 2) && s.keyValid) ||
        (decide (8 ≤ k) && s.err.getLsbD (k - 8))) := by
  have hhigh : 16 ≤ k → s.err.getLsbD (k - 8) = false := fun h => BitVec.getLsbD_of_ge _ _ (by omega)
  simp only [statusWord, BitVec.getLsbD_or, getLsbD_flagBit, BitVec.getLsbD_shiftLeft,
    BitVec.getLsbD_setWidth, Nat.reduceLT]
  grind

/-- Settles O14: the bits of the three flags and of the shifted code do not meet. -/
theorem statusFieldsAreInPlace : Obligations.StatusFieldsAreInPlace := by
  unfold Obligations.StatusFieldsAreInPlace
  intro s
  simp only [readReg, getLsbD_statusWord]
  refine ⟨by simp, by simp, by simp, fun k hlow hhigh => ?_, fun k hk => ?_, fun k hk => ?_⟩
  · grind
  · grind
  · have hcode : s.err.getLsbD (k - 8) = false := BitVec.getLsbD_of_ge _ _ (by omega)
    grind

/-- Settles O12: a read is answered from the register at its offset, and each register reads its own field. -/
theorem registerReadsOnlyAnswer : Obligations.RegisterReadsOnlyAnswer := by
  unfold Obligations.RegisterReadsOnlyAnswer
  refine ⟨fun s => ?_, fun s o d hreset haligned => ⟨fun r ho => ?_, fun hunmapped => ?_⟩⟩
  · refine ⟨rfl, rfl, rfl, fun k => ?_, rfl, rfl, rfl, ?_, fun _ => rfl, fun _ => rfl, rfl, rfl, rfl, rfl,
      rfl, ?_, ?_, ?_, rfl, rfl, rfl, rfl⟩
    · simp [readReg, irqEnWord, getLsbD_flagBit]
    all_goals exact BitVec.toNat_setWidth_of_le (by decide)
  · exact portAccess_read_of_offset s o d r hreset ho
  · exact portAccess_unmapped s o d false hreset haligned hunmapped

end Sys2Proof.Machine
end

section
/-!
The table windows (spec/10_state.md rules R41, R42): the bytes of a window word are those of the table, four
to a word, and the round keys are one stream of bytes.
-/

namespace Sys2Proof.Machine

/-- Unpacking byte `j` of a packed word gives the `j`-th of the four bytes (R37, R41). -/
theorem byteOf_packWord (f : Nat → Byte) (n : Nat) (j : Fin 4) :
    byteOf (packWord (f n) (f (n + 1)) (f (n + 2)) (f (n + 3))) j.val = f (n + j.val) := by
  ext i hi
  fin_cases j
  all_goals
    simp [byteOf, packWord]
    grind

theorem windowWord_eq_zero (s : State) (f : Nat → Byte) (k : Nat)
    (h : s.keyValid = false ∨ s.busy = true) : windowWord s f k = 0 := by
  rw [windowWord, if_neg]
  rintro ⟨hkey, hidle⟩
  obtain hkey' | hbusy := h
  · simp [hkey] at hkey'
  · exact hidle hbusy

theorem byteOf_windowWord (s : State) (f : Nat → Byte) (k : Nat) (j : Fin 4) (hkey : s.keyValid = true)
    (hidle : s.busy = false) : byteOf (windowWord s f k) j.val = f (4 * k + j.val) := by
  rw [windowWord, if_pos ⟨hkey, by simp [hidle]⟩]
  exact byteOf_packWord f (4 * k) j

/-- Byte `16 r + 4 i + j` of the round-key stream is row `i`, column `j` of round key `r` (R42). -/
theorem roundKeyByte_eq_at (c : Cipher) (r : Fin 17) (i j : Fin 4) :
    roundKeyByte c (4 * (4 * r.val + i.val) + j.val) = Block.at c.rk[r] i j := by
  have hround : (4 * (4 * r.val + i.val) + j.val) / 16 = r.val := by omega
  have hbyte : (4 * (4 * r.val + i.val) + j.val) % 16 = 4 * i.val + j.val := by omega
  rw [roundKeyByte, hround, hbyte, vector_getD_of_lt _ _ r.isLt, vector_getD_of_lt _ _ (by omega)]
  rfl

/-- Settles O15: every window is a window word over the bytes of its table. -/
theorem tableWindowsShowTheInstance : Obligations.TableWindowsShowTheInstance := by
  unfold Obligations.TableWindowsShowTheInstance
  refine fun s => ⟨fun h => ?_, fun hkey hidle => ⟨fun k j => ?_, fun r i j => ?_⟩⟩
  · simp only [readReg, windowWord_eq_zero s _ _ h, implies_true, and_self]
  · have hbyte := fun f => byteOf_windowWord s f k.val j hkey hidle
    have hlt : 4 * k.val + j.val < 256 := by omega
    simp only [readReg, hbyte, vector_getD_of_lt _ _ hlt, and_self]
  · simp only [readReg, byteOf_windowWord s _ _ j hkey hidle, roundKeyByte_eq_at]

end Sys2Proof.Machine
end

section
/-!
The key and IV registers (spec/10_state.md rule R37): how their bytes are packed, and that a command's effect
is the same under other key registers that agree on the bytes of the key.
-/

namespace Sys2Proof.Machine

/-- A bit of byte `k mod 4` of a word. -/
theorem getLsbD_byteOf (w : Word) (k j : Nat) (hj : j < 8) :
    (byteOf w k).getLsbD j = w.getLsbD (8 * (k % 4) + j) := by
  simp [byteOf, hj]

/-! ### Commands under other key registers -/

/-- The state with other words in `KEY0 .. KEY7`. -/
def State.withKey (s : State) (key : Vector Word 8) : State := { s with key := key }

theorem firstError_withKey (i : Instr) (s : State) (key : Vector Word 8) :
    firstError i (s.withKey key) = firstError i s := by
  cases i <;> rfl

theorem writeBuffers_withKey (i : Instr) (s : State) (key : Vector Word 8) :
    writeBuffers i (s.withKey key) = writeBuffers i s := by
  cases i <;> rfl

theorem busErrorReaches_withKey (i : Instr) (s : State) (key : Vector Word 8) :
    busErrorReaches i (s.withKey key) = busErrorReaches i s := by
  cases i <;> rfl

theorem scrambleBuffers_withKey (bs : List Buffer) (s : State) (key : Vector Word 8) :
    scrambleBuffers bs (s.withKey key) = (scrambleBuffers bs s).withKey key := by
  induction bs generalizing s with
  | nil => rfl
  | cons b bs ih => exact ih (scrambleBuffer s b)

theorem disturb_withKey (bs : List Buffer) (h : Hazard) (s : State) (key : Vector Word 8) :
    disturb bs h (s.withKey key) = (disturb bs h s).withKey key := by
  unfold disturb
  split
  · rw [scrambleBuffers_withKey]
    rfl
  · exact scrambleBuffers_withKey _ s key

theorem storeResult_withKey (r : MemResult) (s : State) (key : Vector Word 8) :
    storeResult r (s.withKey key) = (storeResult r s).withKey key := by
  unfold storeResult setOutLen
  split <;> rfl

/-- The end of a memory command whose results do not depend on the key registers keeps them apart. -/
theorem finishMemory_withKey (i : Instr) (r : State → MemResult) (s : State) (key : Vector Word 8)
    (hr : r (s.withKey key) = r s) :
    finishMemory i r (s.withKey key) = (finishMemory i r s).withKey key := by
  rw [finishMemory, finishMemory, writeBuffers_withKey, busErrorReaches_withKey, scrambleBuffers_withKey, hr,
    storeResult_withKey, ← disturb_withKey]
  split <;> rfl

theorem memoryCommand_withKey (i : Instr) (r : State → MemResult) (s t : State) (key : Vector Word 8)
    (hr : r (s.withKey key) = r s) (h : memoryCommand i r s = .next t) :
    memoryCommand i r (s.withKey key) = .next (t.withKey key) := by
  rw [memoryCommand, firstError_withKey]
  obtain ⟨e, he, rfl⟩ | ⟨he, rfl⟩ := memoryCommand_cases i r s t h
  · rw [he]
    rfl
  · rw [he, finishMemory_withKey i r s key hr]

theorem lookupCommand_withKey (i : Instr) (tab : Vector Byte 256) (s t : State) (key : Vector Word 8)
    (h : lookupCommand i tab s = .next t) :
    lookupCommand i tab (s.withKey key) = .next (t.withKey key) := by
  rw [lookupCommand, firstError_withKey]
  obtain ⟨e, he, rfl⟩ | ⟨he, rfl⟩ := lookupCommand_cases i tab s t h
  · rw [he]
    rfl
  · rw [he]
    rfl

theorem keyBytes_withKey (s : State) (key : Vector Word 8)
    (hkey : ∀ k, k < s.keyLen.toNat → keyByte (s.withKey key) k = keyByte s k) :
    keyBytes (s.withKey key) = keyBytes s :=
  List.map_congr_left fun k hk => hkey k (List.mem_range.mp hk)

theorem execKeyInit_withKey (s t : State) (key : Vector Word 8)
    (hkey : keyBytes (s.withKey key) = keyBytes s) (h : execKeyInit s = .next t) :
    execKeyInit (s.withKey key) = .next (t.withKey key) := by
  rw [execKeyInit, firstError_withKey, hkey]
  obtain ⟨e, he, rfl⟩ | ⟨he, rfl⟩ := execKeyInit_cases s t h
  · rw [he]
    rfl
  · rw [he]
    rfl

/-- Of the key registers a command reads the bytes of the key only, and KEY_INIT alone reads those (R37). -/
theorem exec_withKey (i : Instr) (s t : State) (key : Vector Word 8) (h : exec i s = .next t)
    (hkey : ∀ k, k < s.keyLen.toNat → keyByte (s.withKey key) k = keyByte s k) :
    exec i (s.withKey key) = .next (t.withKey key) := by
  cases i
  case nop | gfPmul | gfReduce | gfXtime | gfMul | gfInv | gfAffine | gfSbox => cases h; rfl
  case sboxLookup | invsboxLookup => exact lookupCommand_withKey _ _ s t key h
  case keyInit => exact execKeyInit_withKey s t key (keyBytes_withKey s key hkey) h
  case encBlock | decBlock | cbcEnc | cbcDec | embed | extract | noise =>
    exact memoryCommand_withKey _ _ s t key rfl h

/-- Settles O16: packing is the extraction of a byte's bits, and no command writes the two register arrays. -/
theorem keyAndIvArePackedAndKept : Obligations.KeyAndIvArePackedAndKept := by
  unfold Obligations.KeyAndIvArePackedAndKept
  refine ⟨fun s k j hj => ?_, fun s k j hj => ?_, fun i s t key => exec_withKey i s t key,
    fun i s t h => ?_⟩
  · have hword : k.val / 4 < 8 := by omega
    rw [keyByte, getLsbD_byteOf _ _ _ hj, vector_getD_of_lt _ _ hword]
  · have hword : k.val / 4 < 4 := by omega
    rw [ivByte, getLsbD_byteOf _ _ _ hj, vector_getD_of_lt _ _ hword]
  · obtain ⟨hframe, -⟩ := commandFrame i s t h
    rw [hframe]
    exact ⟨rfl, rfl⟩

end Sys2Proof.Machine
end

section
/-!
The memory commands (spec/20_memory.md rules R103, R106, R108): one function for the results of all seven, so
that what their ends do to the data space is said once, and the bytes a command can change.
-/

namespace Sys2Proof.Machine

/-! ### The results of the memory commands -/

/-- The results that a memory command computes from its registers and read buffers; the other commands have
none (`exec_of_accessesMemory`). -/
def memResult (i : Instr) (s : State) : MemResult :=
  match i with
  | .encBlock => { bytes := (encrypt s.cipher s.build.orient (sourceBlock s)).store, outLen := 16 }
  | .decBlock => { bytes := (decrypt s.cipher s.build.orient (sourceBlock s)).store, outLen := 16 }
  | .cbcEnc => cbcEncResult s
  | .cbcDec => cbcDecResult s
  | .embed => embedResult s
  | .extract => { bytes := extracted s, outLen := (extracted s).length }
  | .noise => noiseResult s
  | .nop | .gfPmul | .gfReduce | .gfXtime | .gfMul | .gfInv | .gfAffine | .gfSbox | .sboxLookup
  | .invsboxLookup | .keyInit => { bytes := [], outLen := 0 }

theorem exec_of_accessesMemory (i : Instr) (s : State) (hmem : accessesMemory i = true) :
    exec i s = memoryCommand i (memResult i) s := by
  cases i
  case encBlock | decBlock | cbcEnc | cbcDec | embed | extract | noise => rfl
  all_goals cases hmem

theorem exec_of_checked (i : Instr) (s : State) (hmem : accessesMemory i = true)
    (hchecked : firstError i s = none) : exec i s = .next (finishMemory i (memResult i) s) := by
  rw [exec_of_accessesMemory i s hmem, memoryCommand, hchecked]

/-- CBC_DEC passes its length check exactly with whole blocks (R355). -/
theorem len_mod_of_checked_cbcDec (s : State) (hchecked : firstError .cbcDec s = none) :
    lenOf s % 16 = 0 := by
  have hlen := (firstError_none_iff .cbcDec s).mp hchecked (.ctLen, lenOf s % 16 != 0) (by simp [checks])
  simpa using hlen

/-- A memory command has one write buffer, at `DST_ADDR`, and its results fit in it once its checks pass. -/
theorem memResult_fits (i : Instr) (s : State) (hmem : accessesMemory i = true)
    (hchecked : firstError i s = none) :
    ∃ n, writeBuffers i s = [⟨s.dstAddr.toNat, n⟩] ∧ (memResult i s).bytes.length ≤ n := by
  cases i
  case encBlock | decBlock => exact ⟨_, rfl, (Block.length_store _).le⟩
  case cbcEnc => exact ⟨_, rfl, by simp [memResult, cbcEncResult, sourceText, length_cbcEncrypt]⟩
  case cbcDec =>
    have hlen := len_mod_of_checked_cbcDec s hchecked
    refine ⟨_, rfl, ?_⟩
    rw [memResult, cbcDecResult, length_cbcDecrypt _ _ _ _ (by simpa [sourceText] using hlen)]
    simp [sourceText]
  case embed => exact ⟨_, rfl, by simp [memResult, embedResult, sourceImage]⟩
  case extract => exact ⟨_, rfl, length_extractFrom _ _ _ _ _ _ _⟩
  case noise => exact ⟨_, rfl, by simp [memResult, noiseResult]⟩
  all_goals cases hmem

/-! ### What a command does to the data space -/

/-- A command keeps the data space, or it is a memory command whose checks pass. -/
theorem exec_mem_cases (i : Instr) (s t : State) (h : exec i s = .next t) :
    t.mem = s.mem ∨
      (accessesMemory i = true ∧ firstError i s = none ∧ t = finishMemory i (memResult i) s) := by
  cases hmem : accessesMemory i with
  | false =>
    obtain ⟨-, -, hkept, -⟩ := commandFrame i s t h
    exact .inl (hkept hmem).2.1
  | true =>
    rw [exec_of_accessesMemory i s hmem] at h
    obtain ⟨e, -, rfl⟩ | ⟨hchecked, rfl⟩ := memoryCommand_cases i _ s t h
    · exact .inl rfl
    · exact .inr ⟨rfl, hchecked, rfl⟩

theorem finishMemory_wf (i : Instr) (r : State → MemResult) (s : State) (hwf : s.mem.wf) :
    (finishMemory i r s).mem.wf := by
  refine disturb_wf _ _ _ ?_
  split
  · exact scrambleBuffers_wf _ s hwf
  · rw [complete_mem, storeResult_mem]
    exact Memory.wf_writeBytes _ _ _ hwf

section
variable (i : Instr) (s : State) (hmem : accessesMemory i = true) (hchecked : firstError i s = none)
include hmem hchecked

theorem finishMemory_keeps_outside (a : Nat) (ha : inBuffers a (writeBuffers i s) = false) :
    (finishMemory i (memResult i) s).mem.read a = s.mem.read a := by
  obtain ⟨n, hbuffer, hfits⟩ := memResult_fits i s hmem hchecked
  refine finishMemory_read_outside i _ s a ha ?_
  rintro ⟨hlo, hhi⟩
  simp [hbuffer, inBuffers, inBuffer, hlo] at ha
  omega

theorem finishMemory_within (hwithin : s.mem.within s.build.memSize) :
    (finishMemory i (memResult i) s).mem.within s.build.memSize := by
  have hrange : ∀ b ∈ writeBuffers i s, inRange s.build.memSize b = true := fun b hb =>
    buffers_inRange_of_checked i s hchecked b (List.mem_append_right _ hb)
  refine disturb_within _ _ _ _ ?_ hrange
  split
  · exact scrambleBuffers_within _ s _ hwithin hrange
  · obtain ⟨n, hbuffer, hfits⟩ := memResult_fits i s hmem hchecked
    have hexists := (inRange_iff _ _).mp (hrange ⟨s.dstAddr.toNat, n⟩ (by simp [hbuffer]))
    simp only at hexists
    rw [complete_mem, storeResult_mem]
    exact Memory.within_writeBytes _ _ _ _ hwithin (by omega)

end

/-- Settles O53: outside its write buffers a command keeps every byte, and its checks put them in range. -/
theorem commandsWriteOnlyTheirBuffers : Obligations.CommandsWriteOnlyTheirBuffers := by
  unfold Obligations.CommandsWriteOnlyTheirBuffers
  intro i s t h a hchanged
  obtain hkept | ⟨hmem, hchecked, rfl⟩ := exec_mem_cases i s t h
  · exact absurd (by rw [hkept]) hchanged
  · have hinside : inBuffers a (writeBuffers i s) = true :=
      Bool.of_not_eq_false fun ha => hchanged (finishMemory_keeps_outside i s hmem hchecked a ha)
    obtain ⟨b, hb, hab⟩ := List.any_eq_true.mp hinside
    have ⟨hlo, hhi⟩ := (inBuffer_iff a b).mp hab
    have hrange := (inRange_iff _ b).mp
      (buffers_inRange_of_checked i s hchecked b (List.mem_append_right _ hb))
    exact ⟨b, hb, hlo, hhi, by omega⟩

end Sys2Proof.Machine
end

section
/-!
The invariant of every run (spec/20_memory.md rule R100, spec/10_state.md rules R33, R40, R43,
spec/60_exceptions.md rule R521, spec/70_reset_and_hazards.md rule R581): each operation of a step keeps it,
hence so does the step.
-/

namespace Sys2Proof.Machine

/-! ### What a command owns while it runs (R114) -/

theorem activeCommand_eq_some (s : State) (i : Instr) (h : activeCommand s = some i) :
    s.busy = true ∧ decode s.ctrl = .ok i ∧ firstError i s = none := by
  unfold activeCommand at h
  split at h
  · next hbusy =>
    split at h
    · next j hj =>
      obtain ⟨hchecked, rfl⟩ := Option.ite_none_right_eq_some.mp h |>.imp_right Option.some.inj
      exact ⟨hbusy, hj, hchecked⟩
    · cases h
  · cases h

/-- The owned write buffers are none, or those of the checked command in progress. -/
theorem ownedWrites_cases (s : State) :
    ownedWrites s = [] ∨ ∃ i, decode s.ctrl = .ok i ∧ firstError i s = none ∧
      ownedWrites s = writeBuffers i s := by
  unfold ownedWrites
  split
  · next i hactive =>
    obtain ⟨-, hdecode, hchecked⟩ := activeCommand_eq_some s i hactive
    exact .inr ⟨i, hdecode, hchecked, rfl⟩
  · exact .inl rfl

theorem ownedWrites_inRange (s : State) : ∀ b ∈ ownedWrites s, inRange s.build.memSize b = true := by
  intro b hb
  obtain hnone | ⟨i, -, hchecked, howned⟩ := ownedWrites_cases s
  · simp [hnone] at hb
  · exact buffers_inRange_of_checked i s hchecked b (List.mem_append_right _ (howned ▸ hb))

/-- Without an owner another agent's write is a write of the byte (R113). -/
theorem agentWriteByte_of_unowned (a : Nat) (v : Byte) (s : State) (h : activeCommand s = none) :
    agentWriteByte a v s = { s with mem := s.mem.write a v } := by
  simp [agentWriteByte, ownedReads, ownedWrites, h, inBuffers]

theorem activeCommand_of_idle (s : State) (hidle : s.busy = false) : activeCommand s = none := by
  simp [activeCommand, hidle]

/-! ### The registers while reset is asserted (R581) -/

theorem AtReset.idle {s : State} (h : AtReset s) : s.busy = false :=
  (congrArg State.busy h).symm

theorem AtReset.with_kept {s : State} (h : AtReset s) (m : Memory) (d : Word) (x : Bool) (b : Byte) (n : Nat)
    (l : List Event) :
    AtReset { s with mem := m, portData := d, portError := x, agentData := b, freeIx := n, inbox := l } := by
  have hkept := congrArg (fun u : State =>
    { u with mem := m, portData := d, portError := x, agentData := b, freeIx := n, inbox := l }) h
  exact hkept

/-! ### The updates that keep the invariant -/

section
variable {s : State} (hs : Inv s)
include hs

/-- The invariant says nothing of the answers, the free values and the inputs to come. -/
theorem Inv.with_kept (d : Word) (x : Bool) (b : Byte) (n : Nat) (l : List Event) :
    Inv { s with portData := d, portError := x, agentData := b, freeIx := n, inbox := l } :=
  { hs with heldInReset := fun hreset => (hs.heldInReset hreset).with_kept s.mem d x b n l }

theorem Inv.with_mem (m : Memory) (hwf : m.wf) (hwithin : m.within s.build.memSize) :
    Inv { s with mem := m } :=
  { hs with
    memCanonical := hwf
    memExists := hwithin
    heldInReset := fun hreset =>
      (hs.heldInReset hreset).with_kept m s.portData s.portError s.agentData s.freeIx s.inbox }

/-- A busy block is out of reset. -/
theorem Inv.not_inReset (hbusy : s.busy = true) : s.inReset ≠ true := fun hreset => by
  simp [(hs.heldInReset hreset).idle] at hbusy

theorem Inv.with_hazard (hbusy : s.busy = true) (h : Hazard) : Inv { s with hazard := h } :=
  { hs with
    idleUndisturbed := fun hidle => by simp [hbusy] at hidle
    heldInReset := fun hreset => absurd hreset (hs.not_inReset hbusy) }

/-- Out of reset the invariant speaks of eight fields only. -/
theorem Inv.of_fields {t : State} (hreset : t.inReset = false)
    (ht : t = { t with mem := s.mem, build := s.build, err := s.err, busy := s.busy, done := s.done,
                       hazard := s.hazard, keyValid := s.keyValid, cipher := s.cipher }) : Inv t := by
  rw [ht]
  exact { hs with heldInReset := fun h => by simp [hreset] at h }

end

/-! ### Commands -/

theorem ErrCode.toNat_code_le (e : ErrCode) : e.code.toNat ≤ 12 := by
  cases e <;> decide

/-- Every end of a command leaves an idle, undisturbed block with a code of rule R521. -/
theorem exec_completed (i : Instr) (s t : State) (h : exec i s = .next t) :
    t.busy = false ∧ t.hazard = {} ∧ t.err.toNat ≤ 12 := by
  obtain ⟨e, -, rfl⟩ | ⟨-, ⟨-, rfl⟩ | ⟨-, v, rfl⟩ | ⟨-, rfl⟩ | ⟨-, r, rfl⟩⟩ := exec_cases i s t h
  case inr.inr.inr.inr =>
    rw [finishMemory_frame]
    refine ⟨rfl, rfl, ?_⟩
    dsimp only
    split <;> exact ErrCode.toNat_code_le _
  all_goals exact ⟨rfl, rfl, ErrCode.toNat_code_le _⟩

section
variable {s : State} (hs : Inv s)
include hs

theorem Inv.exec_mem {i : Instr} {t : State} (h : exec i s = .next t) :
    t.mem.wf ∧ t.mem.within s.build.memSize := by
  obtain hkept | ⟨hmem, hchecked, rfl⟩ := exec_mem_cases i s t h
  · rw [hkept]
    exact ⟨hs.memCanonical, hs.memExists⟩
  · exact ⟨finishMemory_wf i _ s hs.memCanonical,
      finishMemory_within i s hmem hchecked hs.memExists⟩

theorem Inv.exec_tables {i : Instr} {t : State} (h : exec i s = .next t) :
    t.keyValid = true → CipherInstalled t := by
  have hbuild := (exec_build_inbox i s t h).1
  obtain ⟨hcipher, hvalid⟩ | ⟨-, hlen, -, hcipher⟩ := exec_cipher_keyValid i s t h
  · intro hkey
    rw [CipherInstalled, hcipher, hbuild]
    exact hs.keyTables (hvalid ▸ hkey)
  · refine fun _ => ⟨keyBytes s, ?_, by rw [hcipher, hbuild]⟩
    obtain hlen | hlen | hlen := hlen <;> simp [keyBytes, hlen]

theorem Inv.exec {i : Instr} {t : State} (hreset : s.inReset = false) (h : exec i s = .next t) : Inv t := by
  obtain ⟨hidle, hhazard, herr⟩ := exec_completed i s t h
  obtain ⟨hwf, hwithin⟩ := hs.exec_mem h
  have hstill : t.inReset = false := by
    obtain ⟨hframe, -⟩ := commandFrame i s t h
    rw [hframe]
    exact hreset
  exact
    { memCanonical := hwf
      memExists := by rwa [(exec_build_inbox i s t h).1]
      errCode := herr
      busyNotDone := fun hbusy => by simp [hidle] at hbusy
      idleUndisturbed := fun _ => hhazard
      keyTables := hs.exec_tables h
      heldInReset := fun h => by simp [hstill] at h }

/-- The completion of an illegal command word (R153). -/
theorem Inv.complete (e : ErrCode) (hreset : s.inReset = false) : Inv (complete e s) :=
  { hs with
    errCode := ErrCode.toNat_code_le e
    busyNotDone := nofun
    idleUndisturbed := fun _ => rfl
    heldInReset := fun h => by simp [hreset] at h }

theorem Inv.engineTurn {t : State} (h : engineTurn s = .next t) : Inv t := by
  obtain ⟨⟨-, hreset⟩, hrun⟩ | ⟨-, rfl⟩ := engineTurn_cases s t h
  · obtain ⟨i, -, hexec⟩ | ⟨e, -, rfl⟩ := runCommand_cases s t hrun
    · exact hs.exec hreset hexec
    · exact hs.complete .cmd hreset
  · exact hs

/-! ### The register port -/

theorem Inv.writeFrozen {t : State} (hreset : s.inReset = false) (ht : s.busy = false → Inv t) :
    Inv (writeFrozen s t) := by
  cases hbusy : s.busy with
  | false =>
    rw [writeFrozen_of_idle s t hbusy]
    exact ht hbusy
  | true =>
    rw [writeFrozen_of_busy s t hbusy]
    exact hs.of_fields hreset rfl

theorem Inv.accept (v : Word) (hreset : s.inReset = false) : Inv (accept v s) :=
  { hs with
    errCode := Nat.zero_le _
    busyNotDone := fun _ => ⟨rfl, rfl⟩
    idleUndisturbed := nofun
    heldInReset := fun h => by simp [hreset] at h }

theorem Inv.writeReg (r : Reg) (v : Word) (hreset : s.inReset = false) : Inv (writeReg r v s) := by
  cases r
  case ctrl => exact hs.writeFrozen hreset fun _ => hs.accept v hreset
  case irqEn | irqStatus => exact hs.of_fields hreset rfl
  case id | version | status | res | outLen | sboxWin | invsboxWin | rconWin | rkWin => exact hs
  all_goals exact hs.writeFrozen hreset fun _ => hs.of_fields hreset rfl

theorem Inv.answer (d : Word) (x : Bool) : Inv (answer d x s) :=
  hs.with_kept d x s.agentData s.freeIx s.inbox

theorem Inv.portAccess (a : PortAccess) : Inv (portAccess a s) := by
  obtain ⟨data, error, hp⟩ | ⟨-, hreset, -, r, -, hp⟩ := portAccess_cases a s
  · rw [hp]
    exact hs.answer data error
  · rw [hp]
    exact (hs.writeReg r a.data hreset).answer 0 false

theorem Inv.hostAccess (a : HostAccess) : Inv (hostAccess a s) := by
  obtain ⟨p, -, hp⟩ | ⟨-, hkept⟩ := hostAccess_cases a s
  · rw [hp]
    exact hs.portAccess p
  · rw [hkept]
    exact hs

/-! ### The other inputs -/

theorem Inv.noteBusError : Inv (noteBusError s) := by
  unfold Machine.noteBusError
  split
  · next hbusy => exact hs.with_hazard hbusy _
  · exact hs

theorem Inv.agentWriteByte (a : Nat) (v : Byte) (ha : a < s.build.memSize) :
    Inv (agentWriteByte a v s) := by
  have hstored : Inv { s with mem := s.mem.write a v } :=
    hs.with_mem _ (Memory.wf_write _ _ _ hs.memCanonical) (Memory.within_write _ _ _ _ hs.memExists ha)
  cases hbusy : s.busy with
  | false =>
    rw [agentWriteByte_of_unowned a v s (activeCommand_of_idle s hbusy)]
    exact hstored
  | true => exact hstored.with_hazard hbusy _

theorem Inv.agentReadByte (a : Nat) : Inv (agentReadByte a s) := by
  unfold Machine.agentReadByte
  split
  · exact hs.with_kept s.portData s.portError _ _ s.inbox
  · exact hs.with_kept s.portData s.portError _ s.freeIx s.inbox

/-- An asserted reset puts every field at a value that the invariant allows; an aborted command leaves free
values in its own write buffers only, which exist. -/
theorem Inv.assertReset : Inv (assertReset s) := by
  exact
    { memCanonical := scrambleBuffers_wf _ s hs.memCanonical
      memExists := by
        rw [(assertReset_build_inbox s).1]
        exact scrambleBuffers_within _ s _ hs.memExists (ownedWrites_inRange s)
      errCode := Nat.zero_le _
      busyNotDone := nofun
      idleUndisturbed := fun _ => rfl
      keyTables := nofun
      heldInReset := fun _ => rfl }

theorem Inv.handle {e : Event} {t : State} (h : handle e s = .next t) : Inv t := by
  cases e with
  | port a => cases h; exact hs.portAccess a
  | host a => cases h; exact hs.hostAccess a
  | engine => exact hs.engineTurn h
  | busError => cases h; exact hs.noteBusError
  | agentWrite a v =>
    obtain ⟨ha, rfl⟩ := next_of_guarded h
    exact hs.agentWriteByte a.toNat v ha
  | agentRead a =>
    obtain ⟨-, rfl⟩ := next_of_guarded h
    exact hs.agentReadByte a.toNat
  | resetAssert => cases h; exact hs.assertReset
  | resetRelease => cases h; exact hs.of_fields rfl rfl

end

/-- Settles O60: taking the input from the list keeps the invariant, and so does what the input does. -/
theorem stepKeepsInvariant : Obligations.StepKeepsInvariant := by
  unfold Obligations.StepKeepsInvariant
  intro s t hs h
  obtain ⟨-, ⟨-, hturn⟩ | ⟨e, rest, -, hhandle⟩⟩ := step_cases s t h
  · exact hs.engineTurn hturn
  · exact (hs.with_kept s.portData s.portError s.agentData s.freeIx rest).handle hhandle

end Sys2Proof.Machine
end

section
/-!
Other agents, bus errors and stops (spec/20_memory.md rules R100, R109, R110, R113 to R115): what each input
does while the block is idle and while a command runs, and what a disturbed command leaves at its completion.
-/

namespace Sys2Proof.Machine

/-- Settles O13: an access that is not well formed takes the port's first branch. -/
theorem malformedAccessHasNoEffect : Obligations.MalformedAccessHasNoEffect := by
  unfold Obligations.MalformedAccessHasNoEffect
  intro s t h
  have hmalformed : wellFormedAccess t = false := by simpa [wellFormedAccess, imp_iff_not_or] using h
  rw [portAccess, hmalformed]
  rfl

/-! ### What can stop a step (R100) -/

theorem lookupCommand_of_checked (i : Instr) (tab : Vector Byte 256) (s : State)
    (hchecked : firstError i s = none) :
    lookupCommand i tab s = resultCommand ((lookup tab (opA8 s)).setWidth 32) s := by
  rw [lookupCommand, hchecked]

theorem exec_next (i : Instr) (s : State) : ∃ t, exec i s = .next t := by
  cases h : firstError i s with
  | some e => exact ⟨_, exec_of_firstError i s e h⟩
  | none =>
    cases i
    case encBlock | decBlock | cbcEnc | cbcDec | embed | extract | noise =>
      exact ⟨_, exec_of_checked _ s rfl h⟩
    case sboxLookup | invsboxLookup => exact ⟨_, lookupCommand_of_checked _ _ s h⟩
    case keyInit => exact ⟨_, by rw [exec, execKeyInit, h]⟩
    all_goals exact ⟨_, rfl⟩

theorem engineTurn_next (s : State) : ∃ t, engineTurn s = .next t := by
  unfold engineTurn
  split
  · unfold runCommand
    split
    · exact exec_next _ s
    · exact ⟨_, rfl⟩
  · exact ⟨_, rfl⟩

/-- With a legal build and no input to come the engine has the turn. -/
theorem step_of_no_input (s : State) (hbuild : s.build.wellFormed = true) (hinbox : s.inbox = []) :
    step s = engineTurn s := by
  rw [step, if_pos hbuild, advance, hinbox]

/-- With a legal build the engine's turn runs the command of a busy block out of reset. -/
theorem step_of_engine (s : State) (i : Instr) (rest : List Event) (hbuild : s.build.wellFormed = true)
    (hbusy : s.busy = true) (hreset : s.inReset = false) (hdecode : decode s.ctrl = .ok i)
    (hinbox : s.inbox = .engine :: rest) : step s = exec i { s with inbox := rest } := by
  rw [step_of_input s .engine rest hbuild hinbox, handle, engineTurn, if_pos ⟨hbusy, by simp [hreset]⟩,
    runCommand, hdecode]

/-- Settles O9: of the inputs only another agent's read and write are guarded by the existence of an
address. -/
theorem onlyAbsentAddressesStop : Obligations.OnlyAbsentAddressesStop := by
  unfold Obligations.OnlyAbsentAddressesStop
  intro s hbuild
  cases hinbox : s.inbox with
  | nil =>
    rw [step_of_no_input s hbuild hinbox]
    exact .inl (engineTurn_next s)
  | cons e rest =>
    rw [step_of_input s e rest hbuild hinbox]
    cases e with
    | agentWrite a v =>
      by_cases ha : a.toNat < s.build.memSize
      · exact .inl ⟨_, if_pos ha⟩
      · exact .inr ⟨a, rest, if_neg ha, by omega, .inr ⟨v, rfl⟩⟩
    | agentRead a =>
      by_cases ha : a.toNat < s.build.memSize
      · exact .inl ⟨_, if_pos ha⟩
      · exact .inr ⟨a, rest, if_neg ha, by omega, .inl rfl⟩
    | engine => exact .inl (engineTurn_next _)
    | port | host | busError | resetAssert | resetRelease => exact .inl ⟨_, rfl⟩

/-! ### The inputs of other agents (R113, R114) -/

theorem step_agentWrite (s : State) (a : Word) (v : Byte) (rest : List Event)
    (hbuild : s.build.wellFormed = true) (ha : a.toNat < s.build.memSize)
    (hinbox : s.inbox = .agentWrite a v :: rest) :
    step s = .next (agentWriteByte a.toNat v { s with inbox := rest }) := by
  rw [step_of_input s _ rest hbuild hinbox, handle, if_pos ha]

theorem step_agentRead (s : State) (a : Word) (rest : List Event)
    (hbuild : s.build.wellFormed = true) (ha : a.toNat < s.build.memSize)
    (hinbox : s.inbox = .agentRead a :: rest) :
    step s = .next (agentReadByte a.toNat { s with inbox := rest }) := by
  rw [step_of_input s _ rest hbuild hinbox, handle, if_pos ha]

theorem activeCommand_inbox (s : State) (rest : List Event) :
    activeCommand { s with inbox := rest } = activeCommand s := by
  simp only [activeCommand, firstError_hazard_inbox _ s s.hazard rest]

theorem ownedWrites_inbox (s : State) (rest : List Event) :
    ownedWrites { s with inbox := rest } = ownedWrites s := by
  simp only [ownedWrites, activeCommand_inbox, writeBuffers_hazard_inbox _ s s.hazard rest]

/-- A command in progress whose checks pass owns its buffers (R114). -/
theorem owned_of_checked (s : State) (i : Instr) (hbusy : s.busy = true) (hdecode : decode s.ctrl = .ok i)
    (hchecked : firstError i s = none) :
    ownedReads s = readBuffers i s ∧ ownedWrites s = writeBuffers i s := by
  simp [ownedReads, ownedWrites, activeCommand_of_checked s i hbusy hdecode hchecked]

theorem agentReadByte_of_owned (a : Nat) (s : State) (ha : inBuffers a (ownedWrites s) = true) :
    agentReadByte a s = { s with agentData := Config.freeByte s.freeIx, freeIx := s.freeIx + 1 } :=
  if_pos ha

theorem agentReadByte_of_unowned (a : Nat) (s : State) (ha : inBuffers a (ownedWrites s) = false) :
    agentReadByte a s = { s with agentData := s.mem.read a } :=
  if_neg (by simp [ha])

/-- Settles O56: an idle block owns nothing, and a busy one the buffers of its checked command. -/
theorem agentsSeePlainMemoryWhenIdle : Obligations.AgentsSeePlainMemoryWhenIdle := by
  unfold Obligations.AgentsSeePlainMemoryWhenIdle
  intro s a rest hbuild ha
  refine ⟨fun hidle => ⟨fun v hinbox => ?_, fun hinbox => ?_⟩, fun hbusy hinbox =>
    ⟨fun i hdecode hchecked hinside => ?_, fun houtside => ?_⟩⟩
  · have hstep := step_agentWrite s a v rest hbuild ha hinbox
    rw [agentWriteByte_of_unowned _ _ { s with inbox := rest } (activeCommand_of_idle _ hidle)] at hstep
    exact ⟨_, hstep, rfl, fun x => Memory.read_write _ _ _ _⟩
  · have hnone : ownedWrites s = [] := by simp [ownedWrites, activeCommand_of_idle s hidle]
    rw [step_agentRead s a rest hbuild ha hinbox,
      agentReadByte_of_unowned _ _ (by simp [ownedWrites_inbox, hnone, inBuffers])]
  · have howned := (owned_of_checked s i hbusy hdecode hchecked).2
    rw [step_agentRead s a rest hbuild ha hinbox,
      agentReadByte_of_owned _ _ (by rwa [ownedWrites_inbox, howned])]
  · have hunowned : inBuffers a.toNat (ownedWrites s) = false := by
      obtain hnone | ⟨i, hdecode, hchecked, howned⟩ := ownedWrites_cases s
      · simp [hnone, inBuffers]
      · rw [howned]
        exact houtside i hdecode hchecked
    rw [step_agentRead s a rest hbuild ha hinbox,
      agentReadByte_of_unowned _ _ (by rwa [ownedWrites_inbox])]

/-! ### A bus error (R115) -/

/-- The step of a bus error response: it is noted while busy and lost while idle. -/
theorem step_busError (s : State) (rest : List Event) (hbuild : s.build.wellFormed = true)
    (hinbox : s.inbox = .busError :: rest) :
    (s.busy = true →
      step s = .next { s with hazard := { s.hazard with busError := true }, inbox := rest }) ∧
    (s.busy = false → step s = .next { s with inbox := rest }) := by
  rw [step_of_input s _ rest hbuild hinbox]
  exact ⟨fun hbusy => congrArg Host.Outcome.next (if_pos hbusy),
    fun hidle => congrArg Host.Outcome.next (if_neg (by simp [hidle]))⟩

theorem busErrorReaches_iff (i : Instr) (s : State) :
    busErrorReaches i s = true ↔
      s.hazard.busError = true ∧ ∃ b ∈ readBuffers i s ++ writeBuffers i s, 0 < b.size := by
  simp only [busErrorReaches, Bool.and_eq_true, List.any_eq_true, decide_eq_true_eq]

/-- Without a write to a read buffer the disturbance leaves `OUT_LEN`. -/
theorem disturb_outLen_of_unread (bs : List Buffer) (h : Hazard) (s : State) (hread : h.readHit = false) :
    (disturb bs h s).outLen = s.outLen := by
  simp only [disturb, hread, Bool.false_eq_true, if_false]
  rw [scrambleBuffers_frame]

theorem disturb_outLen_of_read (bs : List Buffer) (h : Hazard) (s : State) (hread : h.readHit = true) :
    ∃ m, (disturb bs h s).outLen = Config.freeWord m :=
  ⟨_, by rw [disturb, if_pos hread, freeOutLen_outLen]⟩

theorem finishMemory_of_busError (i : Instr) (r : State → MemResult) (s : State)
    (hbus : busErrorReaches i s = true) :
    finishMemory i r s =
      disturb (writeBuffers i s) s.hazard (complete .bus (scrambleBuffers (writeBuffers i s) s)) := by
  rw [finishMemory, if_pos hbus]

/-- How a memory command ends that a bus error reaches. -/
theorem exec_of_busError (i : Instr) (s : State) (hmem : accessesMemory i = true)
    (hchecked : firstError i s = none) (hbus : busErrorReaches i s = true) :
    ∃ t, exec i s = .next t ∧
      t = ended 12 { s with mem := t.mem, outLen := t.outLen, freeIx := t.freeIx } ∧
      (s.hazard.readHit = false → t.outLen = s.outLen) ∧
      (∀ a, inBuffers a (writeBuffers i s) = false → t.mem.read a = s.mem.read a) ∧
      ∀ a, inBuffers a (writeBuffers i s) = true → ∃ m, t.mem.read a = Config.freeByte m := by
  refine ⟨_, exec_of_checked i s hmem hchecked, ?_, fun hread => ?_,
    finishMemory_keeps_outside i s hmem hchecked, fun a ha => ?_⟩
  · have hframe := finishMemory_frame i (memResult i) s
    rwa [if_pos hbus] at hframe
  · rw [finishMemory_of_busError i _ s hbus, disturb_outLen_of_unread _ _ _ hread, complete_outLen,
      scrambleBuffers_frame]
  · rw [finishMemory_of_busError i _ s hbus]
    exact disturb_read_inside _ _ _ _ ha
      (.inr (.inr (scrambleBuffers_read_inside (writeBuffers i s) s a (.inl ha))))

/-- Settles O21: the note of the response, and then the end of a command that it reaches. -/
theorem busErrorEndsTheCommand : Obligations.BusErrorEndsTheCommand := by
  unfold Obligations.BusErrorEndsTheCommand
  intro i s hmem hchecked
  refine ⟨fun hbus => exec_of_busError i s hmem hchecked ((busErrorReaches_iff i s).mpr hbus),
    fun hnone => ?_, fun rest hbuild hbusy hreset hdecode haccess hinbox => ?_⟩
  · have hbus : busErrorReaches i s = false := by
      rw [Bool.eq_false_iff, ne_eq, busErrorReaches_iff]
      rintro ⟨hnoted, b, hb, hsize⟩
      obtain hunnoted | hempty := hnone
      · simp [hunnoted] at hnoted
      · exact hsize.ne' (hempty b hb)
    refine ⟨_, exec_of_checked i s hmem hchecked, ?_⟩
    rw [finishMemory_frame, hbus]
    rfl
  · have hnote := (step_busError s _ hbuild hinbox).1 hbusy
    have hturn := step_of_engine
      { s with hazard := { s.hazard with busError := true }, inbox := .engine :: rest } i rest hbuild hbusy
      hreset hdecode rfl
    obtain ⟨u, hexec, hu⟩ := exec_of_busError i
      { s with hazard := { s.hazard with busError := true }, inbox := rest } hmem
      (by rwa [firstError_hazard_inbox])
      ((busErrorReaches_iff i _).mpr
        ⟨rfl, by rwa [readBuffers_hazard_inbox, writeBuffers_hazard_inbox]⟩)
    rw [writeBuffers_hazard_inbox] at hu
    exact ⟨_, u, hnote, hturn.trans hexec, hu⟩

/-! ### A disturbed command (R114) -/

/-- Without a write to a read buffer the disturbance leaves every byte that was not written. -/
theorem disturb_read_of_unwritten (bs : List Buffer) (h : Hazard) (s : State) (a : Nat)
    (hread : h.readHit = false) (ha : a ∉ h.writeHits) :
    (disturb bs h s).mem.read a = s.mem.read a := by
  simp only [disturb, hread, Bool.false_eq_true, if_false]
  refine scrambleBuffers_read_outside _ _ _ ?_
  simp only [inBuffers, List.any_map, List.any_eq_false, Function.comp_apply, inBuffer_iff]
  rintro x hx ⟨hlo, hhi⟩
  obtain rfl : x = a := by simp at hlo hhi; omega
  exact ha (List.mem_filter.mp hx).1

theorem memResult_hazard (i : Instr) (s : State) (h : Hazard) :
    memResult i { s with hazard := h } = memResult i s := by
  cases i <;> rfl

theorem complete_storeResult_hazard (e : ErrCode) (r : MemResult) (s : State) (h : Hazard) :
    complete e (storeResult r { s with hazard := h }) = complete e (storeResult r s) := by
  unfold storeResult setOutLen
  split <;> rfl

/-- Without a bus error the disturbance acts on what the undisturbed command leaves. -/
theorem finishMemory_eq_disturb (i : Instr) (s : State) (hbus : s.hazard.busError = false) :
    finishMemory i (memResult i) s =
      disturb (writeBuffers i s) s.hazard (finishMemory i (memResult i) { s with hazard := {} }) := by
  rw [finishMemory_undisturbed i _ { s with hazard := {} } rfl, memResult_hazard,
    complete_storeResult_hazard, finishMemory]
  simp [busErrorReaches, hbus]

theorem firstError_mem_hazard (i : Instr) (s : State) (m : Memory) (h : Hazard) :
    firstError i { s with mem := m, hazard := h } = firstError i s := by
  cases i <;> rfl

theorem lookupCommand_mem_hazard (i : Instr) (tab : Vector Byte 256) (s t : State) (m : Memory) (h : Hazard)
    (hexec : lookupCommand i tab s = .next t) :
    lookupCommand i tab { s with mem := m, hazard := h } = .next { t with mem := m } := by
  rw [lookupCommand, firstError_mem_hazard]
  obtain ⟨e, he, rfl⟩ | ⟨he, rfl⟩ := lookupCommand_cases i tab s t hexec
  · rw [he]
    rfl
  · rw [he]
    rfl

/-- A command that accesses no memory depends neither on the data space nor on what other agents did. -/
theorem exec_mem_hazard (i : Instr) (s t : State) (m : Memory) (h : Hazard)
    (hno : accessesMemory i = false) (hexec : exec i s = .next t) :
    exec i { s with mem := m, hazard := h } = .next { t with mem := m } := by
  cases i
  case nop | gfPmul | gfReduce | gfXtime | gfMul | gfInv | gfAffine | gfSbox => cases hexec; rfl
  case sboxLookup | invsboxLookup => exact lookupCommand_mem_hazard _ _ s t m h hexec
  case keyInit =>
    rw [exec, execKeyInit, firstError_mem_hazard]
    obtain ⟨e, he, rfl⟩ | ⟨he, rfl⟩ := execKeyInit_cases s t hexec
    · rw [he]
      rfl
    · rw [he]
      rfl
  all_goals cases hno

/-- A disturbed command against its undisturbed run. -/
theorem exec_disturbed (i : Instr) (s u : State) (hchecked : firstError i s = none)
    (hbus : s.hazard.busError = false) (hexec : exec i { s with hazard := {} } = .next u) :
    ∃ t, exec i s = .next t ∧ t = { u with mem := t.mem, outLen := t.outLen, freeIx := t.freeIx } ∧
      (∀ a, inBuffers a (writeBuffers i s) = false → t.mem.read a = u.mem.read a) ∧
      (s.hazard.readHit = false → t.outLen = u.outLen ∧
        ∀ a, a ∉ s.hazard.writeHits → t.mem.read a = u.mem.read a) := by
  cases hmem : accessesMemory i with
  | false =>
    obtain ⟨-, -, hkept, -⟩ := commandFrame i _ u hexec
    obtain ⟨-, hu, -⟩ := hkept hmem
    exact ⟨_, exec_mem_hazard i { s with hazard := {} } u s.mem s.hazard hmem hexec, rfl,
      fun a _ => by rw [hu], fun _ => ⟨rfl, fun a _ => by rw [hu]⟩⟩
  | true =>
    have hchecked' : firstError i { s with hazard := {} } = none := by
      rwa [firstError_mem_hazard i s s.mem {}]
    obtain rfl : finishMemory i (memResult i) { s with hazard := {} } = u :=
      Host.Outcome.next.inj ((exec_of_checked i _ hmem hchecked').symm.trans hexec)
    rw [exec_of_checked i s hmem hchecked, finishMemory_eq_disturb i s hbus]
    exact ⟨_, rfl, disturb_frame _ _ _, disturb_read_outside _ _ _, fun hread =>
      ⟨disturb_outLen_of_unread _ _ _ hread, fun a => disturb_read_of_unwritten _ _ _ a hread⟩⟩

/-- Which results of a disturbed memory command are free values, with a bus error or without one. -/
theorem exec_disturbed_free (i : Instr) (s : State) (hmem : accessesMemory i = true)
    (hchecked : firstError i s = none) :
    ∃ t, exec i s = .next t ∧
      (s.hazard.readHit = true → (∃ m, t.outLen = Config.freeWord m) ∧
        ∀ a, inBuffers a (writeBuffers i s) = true → ∃ m, t.mem.read a = Config.freeByte m) ∧
      ∀ a ∈ s.hazard.writeHits, inBuffers a (writeBuffers i s) = true →
        ∃ m, t.mem.read a = Config.freeByte m :=
  ⟨_, exec_of_checked i s hmem hchecked,
    fun hread => ⟨disturb_outLen_of_read _ _ _ hread,
      fun a ha => disturb_read_inside _ _ _ a ha (.inl hread)⟩,
    fun a hwritten ha => disturb_read_inside _ _ _ a ha (.inr (.inl hwritten))⟩

/-- What another agent's write notes where a checked command is in progress. -/
theorem agentWriteByte_hazard (a : Nat) (v : Byte) (s : State) (i : Instr) (hbusy : s.busy = true)
    (hdecode : decode s.ctrl = .ok i) (hchecked : firstError i s = none) :
    (agentWriteByte a v s).hazard.readHit = (s.hazard.readHit || inBuffers a (readBuffers i s)) ∧
    ∀ x, x ∈ (agentWriteByte a v s).hazard.writeHits ↔
      x ∈ s.hazard.writeHits ∨ (x = a ∧ inBuffers a (writeBuffers i s) = true) := by
  obtain ⟨hreads, hwrites⟩ := owned_of_checked s i hbusy hdecode hchecked
  refine ⟨by rw [← hreads]; rfl, fun x => ?_⟩
  simp only [agentWriteByte, hwrites]
  split
  · next hinside => simp [hinside, or_comm]
  · next houtside => simp [houtside]

/-- Settles O22: the comparison of the two runs, the free results, and what the two inputs note. -/
theorem disturbedCommandStillCompletes : Obligations.DisturbedCommandStillCompletes := by
  unfold Obligations.DisturbedCommandStillCompletes
  refine ⟨exec_disturbed, exec_disturbed_free, fun s a v rest hbuild hbusy ha hinbox => ?_, step_busError⟩
  refine ⟨_, step_agentWrite s a v rest hbuild ha hinbox, rfl, fun x => Memory.read_write _ _ _ _, rfl,
    fun i hdecode hchecked => ?_, fun hfails => ?_⟩
  · have hnoted := agentWriteByte_hazard a.toNat v { s with inbox := rest } i hbusy hdecode
      (by rwa [firstError_hazard_inbox i s s.hazard rest])
    rwa [readBuffers_hazard_inbox i s s.hazard rest, writeBuffers_hazard_inbox i s s.hazard rest] at hnoted
  · have hnone : activeCommand { s with inbox := rest } = none := by
      rw [activeCommand_inbox, activeCommand_eq_none s hfails]
    rw [agentWriteByte_of_unowned _ _ _ hnone]

end Sys2Proof.Machine
end

section
/-!
A command's results are a function of its registers and read buffers (spec/20_memory.md rules R106, R108): two
runs over data spaces that agree on the read buffers stay alike through every operation of a command.
-/

namespace Sys2Proof.Machine

/-- Two runs that began over the data spaces `m` and `m'` have come to states that differ in the data space
alone, where each byte is equal in both or in both still what it was. -/
inductive Alike (m m' : Memory) (s : State) : State → Prop
  | differInMem (k : Memory)
      (bytes : ∀ a, k.read a = s.mem.read a ∨ (s.mem.read a = m.read a ∧ k.read a = m'.read a)) :
      Alike m m' s { s with mem := k }

theorem Alike.start (m : Memory) (s : State) : Alike s.mem m s { s with mem := m } :=
  .differInMem m fun _ => .inr ⟨rfl, rfl⟩

section
variable {m m' : Memory} {s t : State} (hst : Alike m m' s t)
include hst

theorem Alike.complete (e : ErrCode) : Alike m m' (complete e s) (complete e t) := by
  obtain ⟨k, hbytes⟩ := hst
  exact .differInMem k hbytes

theorem Alike.freeOutLen : Alike m m' (freeOutLen s) (freeOutLen t) := by
  obtain ⟨k, hbytes⟩ := hst
  exact .differInMem k hbytes

theorem Alike.setOutLen (n : Nat) : Alike m m' (setOutLen n s) (setOutLen n t) := by
  unfold Machine.setOutLen
  split
  · obtain ⟨k, hbytes⟩ := hst
    exact .differInMem k hbytes
  · exact hst.freeOutLen

/-- The same bytes written to both data spaces, and as many free values consumed. -/
theorem Alike.writeBytes (a : Nat) (vs : List Byte) (n : Nat) :
    Alike m m' { s with mem := s.mem.writeBytes a vs, freeIx := s.freeIx + n }
      { t with mem := t.mem.writeBytes a vs, freeIx := t.freeIx + n } := by
  obtain ⟨k, hbytes⟩ := hst
  refine .differInMem (k.writeBytes a vs) fun b => ?_
  simp only [Memory.read_writeBytes]
  split
  · exact .inl rfl
  · exact hbytes b

theorem Alike.storeResult (r : MemResult) : Alike m m' (storeResult r s) (storeResult r t) := by
  obtain ⟨k, hbytes⟩ := hst
  exact ((Alike.differInMem k hbytes).writeBytes s.dstAddr.toNat r.bytes r.draws).setOutLen r.outLen

theorem Alike.scrambleBuffer (b : Buffer) : Alike m m' (scrambleBuffer s b) (scrambleBuffer t b) := by
  obtain ⟨k, hbytes⟩ := hst
  exact (Alike.differInMem k hbytes).writeBytes b.start (freeBytes s.freeIx b.size) b.size

end

theorem Alike.scrambleBuffers {m m' : Memory} (bs : List Buffer) {s t : State} (hst : Alike m m' s t) :
    Alike m m' (scrambleBuffers bs s) (scrambleBuffers bs t) := by
  induction bs generalizing s t with
  | nil => exact hst
  | cons b bs ih => exact ih (hst.scrambleBuffer b)

theorem Alike.disturb {m m' : Memory} {s t : State} (hst : Alike m m' s t) (bs : List Buffer) (h : Hazard) :
    Alike m m' (disturb bs h s) (disturb bs h t) := by
  unfold Machine.disturb
  split
  · exact (hst.scrambleBuffers bs).freeOutLen
  · exact hst.scrambleBuffers _

/-! ### What a memory command reads -/

/-- The results of a memory command are computed from the bytes of its read buffers. -/
theorem memResult_congr (i : Instr) (s : State) (m : Memory)
    (hread : ∀ b ∈ readBuffers i s, m.readBytes b.start b.size = s.mem.readBytes b.start b.size) :
    memResult i { s with mem := m } = memResult i s := by
  cases i
  case encBlock =>
    have hsource := hread ⟨s.srcAddr.toNat, 16⟩ (by simp [readBuffers])
    exact congrArg (fun bs =>
      MemResult.mk (encrypt s.cipher s.build.orient (Block.load bs)).store 16 0) hsource
  case decBlock =>
    have hsource := hread ⟨s.srcAddr.toNat, 16⟩ (by simp [readBuffers])
    exact congrArg (fun bs =>
      MemResult.mk (decrypt s.cipher s.build.orient (Block.load bs)).store 16 0) hsource
  case cbcEnc =>
    have hsource := hread ⟨s.srcAddr.toNat, lenOf s⟩ (by simp [readBuffers])
    exact congrArg (fun text => MemResult.mk (cbcEncrypt s.cipher s.build.orient (ivBlock s) text)
      (lenOf s + padLen (lenOf s)) 0) hsource
  case cbcDec =>
    have hsource := hread ⟨s.srcAddr.toNat, lenOf s⟩ (by simp [readBuffers])
    exact congrArg (fun text =>
      let out := cbcDecrypt s.cipher s.build.orient (ivBlock s) text
      MemResult.mk out (unpadLen s.build.unpadPolicy (Config.freeNat s.freeIx) out) 1) hsource
  case embed =>
    have himage := hread ⟨s.srcAddr.toNat, imgBytes s⟩ (by simp [readBuffers])
    have hpayload := hread ⟨s.auxAddr.toNat, lenOf s⟩ (by simp [readBuffers])
    exact congrArg₂ (fun img pay =>
      MemResult.mk (embedImage img (imgChannels s) pay (bitPos s)) (imgBytes s) 0) himage hpayload
  case extract =>
    have himage := hread ⟨s.srcAddr.toNat, imgBytes s⟩ (by simp [readBuffers])
    exact congrArg (fun img =>
      let out := extractImage s.build img (imgPixels s) (imgChannels s) (bitPos s) s.maxExtract.toNat
      MemResult.mk out out.length 0) himage
  case noise =>
    have himage := hread ⟨s.srcAddr.toNat, imgBytes s⟩ (by simp [readBuffers])
    exact congrArg (fun img => MemResult.mk (noiseImage (rng s.build s.rngSeed) img (imgWidth s)
      (imgHeight s) (imgChannels s) (noiseAttemptCount s) (noiseBound s) (protectedPixels s))
      (imgBytes s) 0) himage
  all_goals rfl

theorem busErrorReaches_mem (i : Instr) (s : State) (m : Memory) :
    busErrorReaches i { s with mem := m } = busErrorReaches i s := by
  cases i <;> rfl

theorem writeBuffers_mem (i : Instr) (s : State) (m : Memory) :
    writeBuffers i { s with mem := m } = writeBuffers i s := by
  cases i <;> rfl

/-- The two ends of a memory command with the same results are alike. -/
theorem finishMemory_alike (i : Instr) (s : State) (m : Memory)
    (hresult : memResult i { s with mem := m } = memResult i s) :
    Alike s.mem m (finishMemory i (memResult i) s) (finishMemory i (memResult i) { s with mem := m }) := by
  have hstart := Alike.start m s
  simp only [finishMemory, busErrorReaches_mem, writeBuffers_mem, hresult]
  refine Alike.disturb ?_ (writeBuffers i s) s.hazard
  split
  · exact (hstart.scrambleBuffers _).complete .bus
  · exact (hstart.storeResult _).complete .ok

/-- Two runs of a command over data spaces that agree on its read buffers end alike. -/
theorem exec_alike (i : Instr) (s t u : State) (m : Memory)
    (hread : ∀ b ∈ readBuffers i s, m.readBytes b.start b.size = s.mem.readBytes b.start b.size)
    (ht : exec i s = .next t) (hu : exec i { s with mem := m } = .next u) : Alike s.mem m t u := by
  have hchecks := firstError_mem_hazard i s m s.hazard
  cases hmem : accessesMemory i with
  | false =>
    obtain ⟨-, -, hkept, -⟩ := commandFrame i s t ht
    obtain ⟨-, hsame, -⟩ := hkept hmem
    obtain rfl : { t with mem := m } = u :=
      Host.Outcome.next.inj ((exec_mem_hazard i s t m s.hazard hmem ht).symm.trans hu)
    exact hsame ▸ Alike.start m t
  | true =>
    cases herror : firstError i s with
    | some e =>
      rw [exec_of_firstError i s e herror] at ht
      rw [exec_of_firstError i _ e (hchecks.trans herror)] at hu
      cases ht
      cases hu
      exact (Alike.start m s).complete e
    | none =>
      rw [exec_of_checked i s hmem herror] at ht
      rw [exec_of_checked i _ hmem (hchecks.trans herror)] at hu
      cases ht
      cases hu
      exact finishMemory_alike i s m (memResult_congr i s m hread)

/-- Settles O54: runs that end alike differ in the data space only, and there only where neither wrote. -/
theorem resultsDependOnlyOnReadBuffers : Obligations.ResultsDependOnlyOnReadBuffers := by
  unfold Obligations.ResultsDependOnlyOnReadBuffers
  intro i s t u m hagree ht hu
  have hread : ∀ b ∈ readBuffers i s, m.readBytes b.start b.size = s.mem.readBytes b.start b.size :=
    fun b hb => Memory.readBytes_congr _ _ _ _ fun k hk => hagree b hb _ (by omega) (by omega)
  obtain ⟨k, hbytes⟩ := exec_alike i s t u m hread ht hu
  exact ⟨rfl, hbytes⟩

end Sys2Proof.Machine
end

section
/-!
The command words and the life of a command (spec/30_encoding.md rules R150 to R164): the decoder and the
encoder as one equivalence, what an accepted word runs, and what the port can do while a command runs.
-/

namespace Sys2Proof

/-! ### The command map (R152) -/

theorem commandOfCode_code (i : Instr) : commandOfCode i.code = some i := by
  cases i <;> rfl

theorem eq_code_of_commandOfCode (c : Byte) (i : Instr) (h : commandOfCode c = some i) : c = i.code := by
  unfold commandOfCode at h
  split at h <;> cases h
  all_goals exact BitVec.eq_of_toNat_eq ‹_›

theorem commandOfCode_eq_some_iff (c : Byte) (i : Instr) : commandOfCode c = some i ↔ c = i.code := by
  constructor
  · exact eq_code_of_commandOfCode c i
  · rintro rfl
    exact commandOfCode_code i

theorem commandCodes_eq : commandCodes = Instr.all.map Instr.code := rfl

theorem Instr.mem_all (i : Instr) : i ∈ Instr.all := by
  cases i <;> decide

/-- The tabled codes are the commands' codes. -/
theorem wordCodeKnown_iff (v : Word) :
    wordCodeKnown v = true ↔ ∃ i : Instr, v.extractLsb' 0 8 = i.code := by
  simp [wordCodeKnown, commandCodes_eq, Instr.mem_all, eq_comm]

/-! ### Words and their fields (R150) -/

/-- A word with its reserved bits zero is its code, extended with zeros. -/
theorem eq_setWidth_iff_fields (v : Word) (c : Byte) :
    v = c.setWidth 32 ↔ v.extractLsb' 8 24 = 0 ∧ v.extractLsb' 0 8 = c := by
  have hc := c.isLt
  have hv := v.isLt
  simp only [← BitVec.toNat_inj, BitVec.toNat_setWidth, BitVec.extractLsb'_toNat, BitVec.ofNat_eq_ofNat,
    BitVec.toNat_ofNat, Nat.shiftRight_eq_div_pow]
  omega

theorem decode_eq_ok_iff_fields (v : Word) (i : Instr) :
    decode v = .ok i ↔ v.extractLsb' 8 24 = 0 ∧ v.extractLsb' 0 8 = i.code := by
  rw [← commandOfCode_eq_some_iff]
  unfold decode
  split
  next hreserved => cases commandOfCode (v.extractLsb' 0 8) <;> simp [hreserved]
  next hreserved => simp only [hreserved, reduceCtorEq, false_and]

/-- A word is matched exactly: the only word of a command is its encoding. -/
theorem decode_eq_ok_iff (v : Word) (i : Instr) : decode v = .ok i ↔ v = encode i := by
  rw [decode_eq_ok_iff_fields, encode, eq_setWidth_iff_fields]

@[simp] theorem decode_encode (i : Instr) : decode (encode i) = .ok i :=
  (decode_eq_ok_iff _ _).mpr rfl

theorem exists_decode_eq_ok_iff (v : Word) : (∃ i, decode v = .ok i) ↔ wordValid v = true := by
  simp [decode_eq_ok_iff_fields, wordValid, wordReservedClear, wordCodeKnown_iff]

/-- Settles O2: the decoder's equivalence, read in each direction, and the tabled codes. -/
theorem decodeInvertsEncode : Obligations.DecodeInvertsEncode := by
  unfold Obligations.DecodeInvertsEncode
  exact ⟨decode_encode, fun v i => (decode_eq_ok_iff v i).mp, exists_decode_eq_ok_iff⟩

/-- Settles O1: the tabled words are the commands' encodings; the other five are evaluated. -/
theorem tabledWordsDecode : Obligations.TabledWordsDecode := by
  unfold Obligations.TabledWordsDecode
  exact ⟨decode_encode .nop, decode_encode .gfPmul, decode_encode .gfReduce, decode_encode .gfXtime,
    decode_encode .gfMul, decode_encode .gfInv, decode_encode .gfAffine, decode_encode .gfSbox,
    decode_encode .sboxLookup, decode_encode .invsboxLookup, decode_encode .keyInit,
    decode_encode .encBlock, decode_encode .decBlock, decode_encode .cbcEnc, decode_encode .cbcDec,
    decode_encode .embed, decode_encode .extract, decode_encode .noise, rfl, rfl, rfl, rfl, rfl⟩

/-- The decoder of a table row's bits reads a whole word as the word itself. -/
theorem decodeTableWord_toNat (v : Word) : decodeTableWord 32 v.toNat = (decode v).toOption := by
  simp [decodeTableWord, Nat.mod_eq_of_lt v.isLt, v.isLt]

end Sys2Proof

namespace Sys2Proof.Machine

/-! ### The engine's turn (R161, R163) -/

theorem engineTurn_of_busy (s : State) (hbusy : s.busy = true) (hreset : s.inReset = false) :
    engineTurn s = runCommand s :=
  if_pos ⟨hbusy, by simp [hreset]⟩

theorem runCommand_of_decode (s : State) (i : Instr) (hdecode : decode s.ctrl = .ok i) :
    runCommand s = exec i s := by
  rw [runCommand, hdecode]

/-- A word that is no command completes at once with `ERR_CMD` (R153). -/
theorem runCommand_of_illegal (s : State) (hword : wordValid s.ctrl = false) :
    runCommand s = .next (complete .cmd s) := by
  have hnone : ¬∃ i, decode s.ctrl = .ok i := by simp [exists_decode_eq_ok_iff, hword]
  cases hdecode : decode s.ctrl with
  | ok i => exact absurd ⟨i, hdecode⟩ hnone
  | error e => rw [runCommand, hdecode, illegalCommand]

/-- Settles O3: with no input to come the state has no input to lose. -/
theorem stepRunsDecodedCommand : Obligations.StepRunsDecodedCommand := by
  unfold Obligations.StepRunsDecodedCommand
  rintro s i rest hbuild hbusy hreset hdecode (hinbox | ⟨hinbox, rfl⟩)
  · exact step_of_engine s i rest hbuild hbusy hreset hdecode hinbox
  · have hsame : { s with inbox := [] } = s := by rw [← hinbox]
    rw [step_of_no_input s hbuild hinbox, engineTurn_of_busy s hbusy hreset,
      runCommand_of_decode s i hdecode, hsame]

theorem withFetchWord_toNat (s : State) (v : Word) : s.withFetchWord 32 v.toNat = acceptedWord v s := by
  simp [State.withFetchWord, Nat.mod_eq_of_lt v.isLt]

/-- Settles O4: a placed word is an accepted one with the engine's turn first. -/
theorem placedWordRunsNext : Obligations.PlacedWordRunsNext := by
  unfold Obligations.PlacedWordRunsNext
  intro s i hbuild
  constructor
  · rw [decodeTableWord_toNat, decode_encode]
    rfl
  · rw [withFetchWord_toNat]
    exact step_of_engine (acceptedWord (encode i) s) i s.inbox hbuild rfl rfl (decode_encode i) rfl

/-! ### The accept of a command word (R160) -/

section
variable (s : State) (v : Word) (rest : List Event) (hbuild : s.build.wellFormed = true)
  (hreset : s.inReset = false) (hinbox : s.inbox = .port ⟨true, 0x008, .word, v⟩ :: rest)
include hbuild hreset hinbox

theorem step_write_ctrl :
    step s = .next (answer 0 false (writeReg .ctrl v { s with inbox := rest })) := by
  rw [step_of_input s _ rest hbuild hinbox, handle,
    portAccess_write_of_offset { s with inbox := rest } 0x008 v .ctrl hreset rfl]

theorem step_write_ctrl_of_idle (hidle : s.busy = false) :
    step s = .next (answer 0 false (accept v { s with inbox := rest })) := by
  rw [step_write_ctrl s v rest hbuild hreset hinbox, writeReg,
    writeFrozen_of_idle { s with inbox := rest } _ hidle]

theorem step_write_ctrl_of_busy (hbusy : s.busy = true) :
    step s = .next (answer 0 false (ignoredWrite { s with inbox := rest })) := by
  rw [step_write_ctrl s v rest hbuild hreset hinbox, writeReg,
    writeFrozen_of_busy { s with inbox := rest } _ hbusy]

end

/-- With no input to come a busy block completes an illegal word with `ERR_CMD`. -/
theorem step_of_illegal_word (s : State) (hbuild : s.build.wellFormed = true) (hbusy : s.busy = true)
    (hreset : s.inReset = false) (hinbox : s.inbox = []) (hword : wordValid s.ctrl = false) :
    step s = .next (complete .cmd s) := by
  rw [step_of_no_input s hbuild hinbox, engineTurn_of_busy s hbusy hreset, runCommand_of_illegal s hword]

/-- Settles O5: the accept of an illegal word leaves a busy block that holds it. -/
theorem illegalWordCompletesWithErrCmd : Obligations.IllegalWordCompletesWithErrCmd := by
  unfold Obligations.IllegalWordCompletesWithErrCmd
  refine ⟨fun s v hbuild hidle hreset hinbox hword => ?_, step_of_illegal_word⟩
  exact ⟨_, step_write_ctrl_of_idle s v [] hbuild hreset hinbox hidle, rfl, rfl,
    step_of_illegal_word (answer 0 false (accept v { s with inbox := [] })) hbuild rfl hreset rfl hword⟩

/-! ### Register writes while a command runs (R34, R164) -/

section
variable (s : State) (r : Reg) (v : Word) (hbusy : s.busy = true)
include hbusy

theorem writeReg_frozen_of_busy (hr : frozenWidth r ≠ none) : writeReg r v s = ignoredWrite s := by
  obtain ⟨w, hw⟩ := Option.ne_none_iff_exists'.mp hr
  obtain ⟨t, hstored, -⟩ := writeReg_eq_writeFrozen r v s w hw
  rw [hstored, writeFrozen_of_busy s t hbusy]

/-- A register write while busy is ignored and noted, or is of an interrupt register, or does nothing. -/
theorem writeReg_cases_of_busy :
    writeReg r v s = ignoredWrite s ∨ writeReg r v s = writeIrqEn v s ∨
      writeReg r v s = writeIrqStatus v s ∨ writeReg r v s = s := by
  cases r
  case ctrl => exact .inl (writeFrozen_of_busy s _ hbusy)
  case irqEn => exact .inr (.inl rfl)
  case irqStatus => exact .inr (.inr (.inl rfl))
  case id | version | status | res | outLen | sboxWin | invsboxWin | rconWin | rkWin =>
    exact .inr (.inr (.inr rfl))
  all_goals exact .inl (writeReg_frozen_of_busy s _ v hbusy (by simp [frozenWidth]))

end

/-- Settles O6: the two outcomes of a `CTRL` write, and the frozen registers while busy. -/
theorem ctrlWriteStartsOrIsIgnored : Obligations.CtrlWriteStartsOrIsIgnored := by
  unfold Obligations.CtrlWriteStartsOrIsIgnored
  intro s v rest hbuild hreset hinbox
  exact ⟨step_write_ctrl_of_idle s v rest hbuild hreset hinbox,
    step_write_ctrl_of_busy s v rest hbuild hreset hinbox,
    fun hbusy r hr w => writeReg_frozen_of_busy s r w hbusy hr⟩

/-- Settles O55: the port answers, and a write that it takes is of an interrupt register or ignored. -/
theorem busyFreezesTheBlock : Obligations.BusyFreezesTheBlock := by
  unfold Obligations.BusyFreezesTheBlock
  intro s a hbusy
  refine ⟨_, rfl, ?_⟩
  obtain ⟨data, error, hp⟩ | ⟨-, -, -, r, -, hp⟩ := portAccess_cases a s
  · rw [hp]
    rfl
  · obtain hw | hw | hw | hw := writeReg_cases_of_busy s r a.data hbusy
    all_goals
      rw [hp, hw]
      rfl

/-! ### The completion of a command (R163) -/

theorem exec_done (i : Instr) (s t : State) (h : exec i s = .next t) :
    t.done = true ∧ t.doneIp = true := by
  obtain ⟨e, -, rfl⟩ | ⟨-, ⟨-, rfl⟩ | ⟨-, v, rfl⟩ | ⟨-, rfl⟩ | ⟨-, r, rfl⟩⟩ := exec_cases i s t h
  case inr.inr.inr.inr =>
    rw [finishMemory_frame]
    exact ⟨rfl, rfl⟩
  all_goals exact ⟨rfl, rfl⟩

/-- Settles O8: every command answers a next state, and every end of a command is a completion. -/
theorem everyCommandCompletes : Obligations.EveryCommandCompletes := by
  unfold Obligations.EveryCommandCompletes
  intro i s
  obtain ⟨t, ht⟩ := exec_next i s
  have ⟨hidle, _, hcode⟩ := exec_completed i s t ht
  have ⟨hdone, hpending⟩ := exec_done i s t ht
  exact ⟨t, ht, hidle, hdone, hpending, hcode⟩

end Sys2Proof.Machine
end

section
/-!
Exclusive-or as addition over GF(2): the sum of a sequence of bits, and the functions on words that
distribute over exclusive-or. Such a function is determined by its values at the powers of two, so a law that
is additive in a word is checked at one word for each of its bits.
-/

namespace Sys2Proof.Machine

/-! ### Sums of bits -/

/-- The exclusive-or of the first `n` bits of a sequence. -/
def xorSum (n : Nat) (f : Nat → Bool) : Bool := (List.range n).foldl (fun r i => r ^^ f i) false

@[simp] theorem xorSum_zero (f : Nat → Bool) : xorSum 0 f = false := rfl

@[simp] theorem xorSum_succ (n : Nat) (f : Nat → Bool) : xorSum (n + 1) f = (xorSum n f ^^ f n) := by
  simp [xorSum, List.range_succ]

theorem xorSum_succ_left (n : Nat) (f : Nat → Bool) :
    xorSum (n + 1) f = (f 0 ^^ xorSum n fun i => f (i + 1)) := by
  induction n with
  | zero => simp
  | succ n ih => rw [xorSum_succ, ih, xorSum_succ, Bool.xor_assoc]

theorem xorSum_congr (n : Nat) (f g : Nat → Bool) (h : ∀ i < n, f i = g i) : xorSum n f = xorSum n g := by
  induction n with
  | zero => rfl
  | succ n ih => rw [xorSum_succ, xorSum_succ, ih fun i hi => h i (by omega), h n (by omega)]

theorem xorSum_xor (n : Nat) (f g : Nat → Bool) :
    (xorSum n fun i => f i ^^ g i) = (xorSum n f ^^ xorSum n g) := by
  induction n with
  | zero => rfl
  | succ n ih =>
    simp only [xorSum_succ, ih, Bool.xor_assoc, Bool.xor_left_comm]

theorem xorSum_reflect (k : Nat) (f : Nat → Bool) :
    (xorSum (k + 1) fun i => f (k - i)) = xorSum (k + 1) f := by
  induction k with
  | zero => rfl
  | succ k ih =>
    rw [xorSum_succ_left, xorSum_succ (k + 1) f, ← ih, Bool.xor_comm]
    simp

/-- Terms that vanish can be left out at the end. -/
theorem xorSum_of_vanishing (n m : Nat) (f : Nat → Bool) (hnm : n ≤ m)
    (h : ∀ i, n ≤ i → f i = false) : xorSum m f = xorSum n f := by
  induction m, hnm using Nat.le_induction with
  | base => rfl
  | succ m hm ih => rw [xorSum_succ, ih, h m hm, Bool.xor_false]

/-! ### Functions that distribute over exclusive-or -/

/-- The function distributes over exclusive-or: it is linear over GF(2). -/
def XorAdditive {n m : Nat} (f : BitVec n → BitVec m) : Prop := ∀ x y, f (x ^^^ y) = f x ^^^ f y

/-- Induction on the number of low bits that may be set: a set top bit is one power of two more. -/
theorem xor_induction_below {n : Nat} {P : BitVec n → Prop} (zero : P 0)
    (xor : ∀ x y, P x → P y → P (x ^^^ y)) (pow : ∀ k < n, P (BitVec.twoPow n k)) (k : Nat) (hk : k ≤ n)
    (x : BitVec n) (hx : ∀ i, k ≤ i → x.getLsbD i = false) : P x := by
  induction k generalizing x with
  | zero =>
    have : x = 0 := BitVec.eq_of_getLsbD_eq fun i _ => by simpa using hx i (Nat.zero_le i)
    exact this ▸ zero
  | succ k ih =>
    have hclear (y : BitVec n) (hbit : y.getLsbD k = false)
        (habove : ∀ i, k + 1 ≤ i → y.getLsbD i = false) :
        P y := ih (by omega) y fun i hi => by
      obtain rfl | hlt := Nat.eq_or_lt_of_le hi
      · exact hbit
      · exact habove i hlt
    cases hbit : x.getLsbD k with
    | false => exact hclear x hbit hx
    | true =>
      have hrest : P (x ^^^ BitVec.twoPow n k) := hclear _ (by simp [hbit, show k < n by omega]) fun i hi => by
        simp [BitVec.getLsbD_twoPow, hx i hi, show k ≠ i by omega]
      simpa [BitVec.xor_assoc] using xor _ _ hrest (pow k (by omega))

/-- Every word is a sum of powers of two. -/
theorem xor_induction {n : Nat} {P : BitVec n → Prop} (zero : P 0)
    (xor : ∀ x y, P x → P y → P (x ^^^ y)) (pow : ∀ k < n, P (BitVec.twoPow n k)) (x : BitVec n) : P x :=
  xor_induction_below zero xor pow n le_rfl x fun i hi => BitVec.getLsbD_of_ge x i hi

namespace XorAdditive

variable {n m l : Nat} {f g : BitVec n → BitVec m}

theorem map_zero (hf : XorAdditive f) : f 0 = 0 := by
  simpa using hf 0 0

theorem comp {h : BitVec m → BitVec l} (hh : XorAdditive h) (hf : XorAdditive f) :
    XorAdditive fun x => h (f x) := fun x y => by
  simp only [hf x y, hh (f x) (f y)]

theorem xor (hf : XorAdditive f) (hg : XorAdditive g) : XorAdditive fun x => f x ^^^ g x := fun x y => by
  simp only [hf x y, hg x y]
  ac_rfl

/-- Additive functions that agree at the powers of two are equal. -/
theorem ext (hf : XorAdditive f) (hg : XorAdditive g)
    (h : ∀ k < n, f (BitVec.twoPow n k) = g (BitVec.twoPow n k)) (x : BitVec n) : f x = g x := by
  induction x using xor_induction with
  | zero => rw [hf.map_zero, hg.map_zero]
  | xor x y hx hy => rw [hf, hg, hx, hy]
  | pow k hk => exact h k hk

end XorAdditive

theorem xorAdditive_id (n : Nat) : XorAdditive fun x : BitVec n => x := fun _ _ => rfl

theorem xorAdditive_zero (n m : Nat) : XorAdditive fun _ : BitVec n => (0 : BitVec m) := fun _ _ => by
  simp

theorem xorAdditive_setWidth (n m : Nat) : XorAdditive fun x : BitVec n => x.setWidth m := fun _ _ =>
  BitVec.setWidth_xor

/-- A fixed word where a bit is set, and else 0. -/
theorem xorAdditive_bit {n m : Nat} (k : Nat) (c : BitVec m) :
    XorAdditive fun x : BitVec n => bif x.getLsbD k then c else 0 := fun x y => by
  simp only [BitVec.getLsbD_xor]
  cases x.getLsbD k <;> cases y.getLsbD k <;> simp

end Sys2Proof.Machine
end

section
/-!
The field functions of GF(2^8) (spec/40_galois_field.md rules R200 to R209). The product's bits are sums of
bit products; reduction is additive and takes the multiples of the modulus to 0; and a function that is additive
and commutes with `xtime` is a multiplication, which makes the field multiplication associative. The inverses
come from a generator of the multiplicative group.
-/

namespace Sys2Proof.Machine

/-! ### Sums of shifted copies, and the carry-less product (R200) -/

/-- `c`, exclusive-or the copies of `m` shifted to the bits set in `b`. -/
def shiftSum (m : Half) (b : Byte) (c : Half) : Half :=
  (List.range 8).foldl (fun r i => if b.getLsbD i then r ^^^ (m <<< i) else r) c

theorem clmul_eq_shiftSum (a b : Byte) : clmul a b = shiftSum (a.setWidth 16) b 0 := by
  simp only [clmul, shiftSum, cond_eq_ite]

theorem getLsbD_foldl_shift (m : Half) (b : Byte) (c : Half) (k n : Nat) :
    ((List.range n).foldl (fun r i => if b.getLsbD i then r ^^^ (m <<< i) else r) c).getLsbD k =
      (c.getLsbD k ^^ xorSum n fun i => b.getLsbD i && (m <<< i).getLsbD k) := by
  induction n with
  | zero => simp
  | succ n ih =>
    rw [List.range_succ, List.foldl_append, xorSum_succ, ← Bool.xor_assoc, ← ih]
    cases hbit : b.getLsbD n <;> simp [hbit]

theorem getLsbD_shiftSum (m : Half) (b : Byte) (c : Half) (k : Nat) :
    (shiftSum m b c).getLsbD k =
      (c.getLsbD k ^^ xorSum 8 fun i => b.getLsbD i && (m <<< i).getLsbD k) :=
  getLsbD_foldl_shift m b c k 8

theorem shiftSum_eq_xor (m : Half) (b : Byte) (c : Half) : shiftSum m b c = shiftSum m b 0 ^^^ c :=
  BitVec.eq_of_getLsbD_eq fun k _ => by simp [getLsbD_shiftSum, Bool.xor_comm]

theorem xorAdditive_shiftSum (m : Half) : XorAdditive fun b => shiftSum m b 0 := fun b c =>
  BitVec.eq_of_getLsbD_eq fun k _ => by
    simp only [getLsbD_shiftSum, BitVec.getLsbD_xor, ← xorSum_xor, Bool.and_xor_distrib_right,
      BitVec.ofNat_eq_ofNat, BitVec.getLsbD_zero, Bool.false_xor]

/-- What bit `i` of `b` adds to bit `k` of the product. -/
def productTerm (a b : Byte) (k i : Nat) : Bool := b.getLsbD i && (a.setWidth 16 <<< i).getLsbD k

theorem productTerm_of_le (a b : Byte) (k i : Nat) (hk : k < 16) (hi : i ≤ k) :
    productTerm a b k i = (b.getLsbD i && a.getLsbD (k - i)) := by
  simp [productTerm, hk, show ¬k < i by omega]

theorem productTerm_of_gt (a b : Byte) (k i : Nat) (hi : k < i) : productTerm a b k i = false := by
  simp [productTerm, hi]

theorem productTerm_of_ge (a b : Byte) (k i : Nat) (hi : 8 ≤ i) : productTerm a b k i = false := by
  simp [productTerm, BitVec.getLsbD_of_ge b i hi]

/-- Bit `i` of `b` and bit `k - i` of `a` meet in bit `k`. -/
theorem getLsbD_clmul (a b : Byte) (k : Nat) (hk : k < 16) :
    (clmul a b).getLsbD k = xorSum (k + 1) fun i => b.getLsbD i && a.getLsbD (k - i) :=
  calc (clmul a b).getLsbD k
    _ = xorSum 8 (productTerm a b k) := by
      rw [clmul_eq_shiftSum, getLsbD_shiftSum, BitVec.ofNat_eq_ofNat, BitVec.getLsbD_zero, Bool.false_xor]
      rfl
    _ = xorSum 16 (productTerm a b k) :=
      (xorSum_of_vanishing 8 16 _ (by omega) (productTerm_of_ge a b k)).symm
    _ = xorSum (k + 1) (productTerm a b k) := xorSum_of_vanishing (k + 1) 16 _ hk (productTerm_of_gt a b k)
    _ = xorSum (k + 1) fun i => b.getLsbD i && a.getLsbD (k - i) :=
      xorSum_congr _ _ _ fun i hi => productTerm_of_le a b k i hk (by omega)

theorem clmul_comm (a b : Byte) : clmul a b = clmul b a :=
  BitVec.eq_of_getLsbD_eq fun k hk => by
    rw [getLsbD_clmul a b k hk, getLsbD_clmul b a k hk, ← xorSum_reflect]
    refine xorSum_congr _ _ _ fun i hi => ?_
    rw [Bool.and_comm, show k - (k - i) = i by omega]

/-- The top bit is the sum over pairs of bits of which one is past the end of its byte. -/
theorem getLsbD_clmul_15 (a b : Byte) : (clmul a b).getLsbD 15 = false := by
  rw [getLsbD_clmul a b 15 (by omega), xorSum_of_vanishing 0 16 _ (by omega), xorSum_zero]
  intro i _
  obtain hi | hi := Nat.lt_or_ge i 8
  · simp [BitVec.getLsbD_of_ge a (15 - i) (by omega)]
  · simp [BitVec.getLsbD_of_ge b i hi]

theorem xorAdditive_clmul (a : Byte) : XorAdditive (clmul a) := fun b c => by
  simp only [clmul_eq_shiftSum, xorAdditive_shiftSum _ b c]

/-- Settles O40: the bit formula with the summation order reversed, and the top bit. -/
theorem clmulIsPolynomialProduct : Obligations.ClmulIsPolynomialProduct := by
  unfold Obligations.ClmulIsPolynomialProduct
  refine fun a b => ⟨fun k hk => ?_, getLsbD_clmul_15 a b⟩
  rw [clmul_comm, getLsbD_clmul b a k (by omega)]
  rfl

/-! ### Reduction (R201) -/

theorem reduceStep_eq_xor (p : Half) (k : Nat) :
    reduceStep p k = p ^^^ bif p.getLsbD k then (0x11B : Half) <<< (k - 8) else 0 := by
  cases hbit : p.getLsbD k <;> simp [reduceStep, hbit]

theorem xorAdditive_reduceStep (k : Nat) : XorAdditive fun p => reduceStep p k := by
  simp only [reduceStep_eq_xor]
  exact (xorAdditive_id 16).xor (xorAdditive_bit k _)

theorem xorAdditive_foldl_reduceStep (ks : List Nat) : XorAdditive fun p => ks.foldl reduceStep p := by
  induction ks with
  | nil => exact xorAdditive_id 16
  | cons k ks ih => exact ih.comp (xorAdditive_reduceStep k)

theorem xorAdditive_reduce : XorAdditive reduce :=
  (xorAdditive_setWidth 16 8).comp (xorAdditive_foldl_reduceStep _)

/-- A carry-less multiple of the modulus 0x11B. -/
def ModulusMultiple (d : Half) : Prop := ∃ q : Byte, d = shiftSum 0x11B q 0

theorem ModulusMultiple.xor {d e : Half} (hd : ModulusMultiple d) (he : ModulusMultiple e) :
    ModulusMultiple (d ^^^ e) := by
  obtain ⟨q, rfl⟩ := hd
  obtain ⟨r, rfl⟩ := he
  exact ⟨q ^^^ r, (xorAdditive_shiftSum _ q r).symm⟩

theorem modulusMultiple_zero : ModulusMultiple 0 := ⟨0, by decide⟩

theorem modulusMultiple_shift : ∀ k < 8, ModulusMultiple ((0x11B : Half) <<< k) := by
  have hpow : ∀ k < 8, (0x11B : Half) <<< k = shiftSum 0x11B (BitVec.twoPow 8 k) 0 := by decide
  exact fun k hk => ⟨_, hpow k hk⟩

theorem modulusMultiple_xor_reduceStep (p : Half) (k : Nat) (hk : k < 16) :
    ModulusMultiple (p ^^^ reduceStep p k) := by
  rw [reduceStep_eq_xor, ← BitVec.xor_assoc, BitVec.xor_self, BitVec.zero_xor]
  cases p.getLsbD k
  · exact modulusMultiple_zero
  · exact modulusMultiple_shift (k - 8) (by omega)

/-- The loop changes its word by a multiple of the modulus. -/
theorem modulusMultiple_xor_foldl (ks : List Nat) (hks : ∀ k ∈ ks, k < 16) (p : Half) :
    ModulusMultiple (p ^^^ ks.foldl reduceStep p) := by
  induction ks generalizing p with
  | nil => simpa using modulusMultiple_zero
  | cons k ks ih =>
    have hstep := modulusMultiple_xor_reduceStep p k (hks k (by simp))
    have hrest := ih (fun j hj => hks j (by simp [hj])) (reduceStep p k)
    simpa [BitVec.xor_assoc] using hstep.xor hrest

/-- The loop clears the upper byte: it leaves the reduced byte, extended with zeros. -/
theorem foldl_reduceStep_eq_reduce (p : Half) :
    [15, 14, 13, 12, 11, 10, 9, 8].foldl reduceStep p = (reduce p).setWidth 16 :=
  (xorAdditive_foldl_reduceStep _).ext ((xorAdditive_setWidth 8 16).comp xorAdditive_reduce) (by decide) p

theorem modulusMultiple_xor_reduce (p : Half) : ModulusMultiple (p ^^^ (reduce p).setWidth 16) := by
  rw [← foldl_reduceStep_eq_reduce]
  exact modulusMultiple_xor_foldl _ (by decide) p

theorem reduce_shiftSum_modulus (q : Byte) : reduce (shiftSum 0x11B q 0) = 0 :=
  (xorAdditive_reduce.comp (xorAdditive_shiftSum 0x11B)).ext (xorAdditive_zero 8 8) (by decide) q

/-- A byte is its own remainder. -/
theorem reduce_setWidth (r : Byte) : reduce (r.setWidth 16) = r :=
  (xorAdditive_reduce.comp (xorAdditive_setWidth 8 16)).ext (xorAdditive_id 8) (by decide) r

theorem reduce_eq_iff (p : Half) (r : Byte) : reduce p = r ↔ ∃ q, p = shiftSum 0x11B q (r.setWidth 16) := by
  constructor
  · rintro rfl
    obtain ⟨q, hq⟩ := modulusMultiple_xor_reduce p
    exact ⟨q, by rw [shiftSum_eq_xor, ← hq, BitVec.xor_assoc, BitVec.xor_self, BitVec.xor_zero]⟩
  · rintro ⟨q, rfl⟩
    rw [shiftSum_eq_xor, xorAdditive_reduce, reduce_shiftSum_modulus, reduce_setWidth, BitVec.ofNat_eq_ofNat,
      BitVec.zero_xor]

/-- Settles O41: the remainder's characterisation, with the multiple written as a sum of shifted copies. -/
theorem reduceIsTheRemainder : Obligations.ReduceIsTheRemainder := by
  unfold Obligations.ReduceIsTheRemainder
  exact reduce_eq_iff

/-! ### Multiplication (R202, R203) -/

theorem fmul_comm (a b : Byte) : fmul a b = fmul b a := by
  rw [fmul, clmul_comm, fmul]

theorem xorAdditive_fmul (a : Byte) : XorAdditive (fmul a) :=
  xorAdditive_reduce.comp (xorAdditive_clmul a)

theorem fmul_xor (a b c : Byte) : fmul a (b ^^^ c) = fmul a b ^^^ fmul a c := xorAdditive_fmul a b c

theorem xor_fmul (a b c : Byte) : fmul (a ^^^ b) c = fmul a c ^^^ fmul b c := by
  simp only [fmul_comm _ c, fmul_xor]

theorem fmul_zero (a : Byte) : fmul a 0 = 0 := (xorAdditive_fmul a).map_zero

theorem zero_fmul (a : Byte) : fmul 0 a = 0 := by
  rw [fmul_comm, fmul_zero]

theorem one_fmul (a : Byte) : fmul 1 a = a :=
  (xorAdditive_fmul 1).ext (xorAdditive_id 8) (by decide) a

theorem fmul_one (a : Byte) : fmul a 1 = a := by
  rw [fmul_comm, one_fmul]

theorem xtime_eq_ite (a : Byte) : xtime a = if a.getLsbD 7 then (a <<< 1) ^^^ 0x1B else a <<< 1 := by
  rw [xtime, BitVec.msb_eq_getLsbD_last, cond_eq_ite]

theorem xtime_eq_xor (a : Byte) : xtime a = a <<< 1 ^^^ bif a.getLsbD 7 then (0x1B : Byte) else 0 := by
  rw [xtime, BitVec.msb_eq_getLsbD_last]
  cases a.getLsbD 7 <;> simp

theorem xorAdditive_xtime : XorAdditive xtime := by
  rw [funext xtime_eq_xor]
  exact XorAdditive.xor (fun a b => BitVec.shiftLeft_xor_distrib a b 1) (xorAdditive_bit 7 _)

theorem xtime_eq_fmul_two (a : Byte) : xtime a = fmul a 2 := by
  rw [fmul_comm]
  exact xorAdditive_xtime.ext (xorAdditive_fmul 2) (by decide) a

/-- Multiplication commutes with `xtime`; both sides are additive in each operand. -/
theorem fmul_xtime (a b : Byte) : fmul a (xtime b) = xtime (fmul a b) := by
  have hpow : ∀ j < 8, ∀ k < 8, fmul (xtime (BitVec.twoPow 8 j)) (BitVec.twoPow 8 k) =
      xtime (fmul (BitVec.twoPow 8 j) (BitVec.twoPow 8 k)) := by decide
  have hleft (j : Nat) (hj : j < 8) :
      fmul (xtime (BitVec.twoPow 8 j)) a = xtime (fmul (BitVec.twoPow 8 j) a) :=
    (xorAdditive_fmul _).ext (xorAdditive_xtime.comp (xorAdditive_fmul _)) (hpow j hj) a
  refine ((xorAdditive_fmul a).comp xorAdditive_xtime).ext
    (xorAdditive_xtime.comp (xorAdditive_fmul a)) (fun j hj => ?_) b
  rw [fmul_comm, hleft j hj, fmul_comm]

/-- Linear over the field's prime part and over `x`: a multiplication by the image of 1. -/
theorem eq_fmul_of_additive_of_xtime (f : Byte → Byte) (hadd : XorAdditive f)
    (hx : ∀ b, f (xtime b) = xtime (f b)) (b : Byte) : f b = fmul (f 1) b := by
  refine hadd.ext (xorAdditive_fmul (f 1)) (fun k => ?_) b
  induction k with
  | zero => exact fun _ => (fmul_one (f 1)).symm
  | succ k ih =>
    intro hk
    have hpow : ∀ j < 7, BitVec.twoPow 8 (j + 1) = xtime (BitVec.twoPow 8 j) := by decide
    rw [hpow k (by omega), hx, ih (by omega), fmul_xtime]

theorem fmul_assoc (a b c : Byte) : fmul a (fmul b c) = fmul (fmul a b) c := by
  have h := eq_fmul_of_additive_of_xtime (fun c => fmul a (fmul b c))
    ((xorAdditive_fmul a).comp (xorAdditive_fmul b)) (fun c => by simp only [fmul_xtime]) c
  simpa only [fmul_one] using h

/-! ### Inverses (R204) -/

/-- The powers of the byte 3, by multiplications by `x + 1`. -/
def generatorPower : Nat → Byte
  | 0 => 1
  | n + 1 => xtime (generatorPower n) ^^^ generatorPower n

theorem generatorPower_succ (n : Nat) : generatorPower (n + 1) = fmul 3 (generatorPower n) := by
  rw [generatorPower, xtime_eq_fmul_two, show (3 : Byte) = 2 ^^^ 1 by decide, xor_fmul, one_fmul, fmul_comm]

theorem generatorPower_add (m n : Nat) :
    generatorPower (m + n) = fmul (generatorPower m) (generatorPower n) := by
  induction m with
  | zero => rw [Nat.zero_add, generatorPower, one_fmul]
  | succ m ih => rw [Nat.add_right_comm, generatorPower_succ, ih, fmul_assoc, ← generatorPower_succ]

theorem generatorPower_255 : generatorPower 255 = 1 := by decide +kernel

/-- In ascending order the first 255 powers are 1, 2, .., 255. -/
theorem insertionSort_generatorPowers :
    ((List.range 255).map fun k => (generatorPower k).toNat).insertionSort (· ≤ ·) =
      (List.range 255).map (· + 1) := by
  decide +kernel

theorem mem_range_map_succ_iff (a : Byte) : a.toNat ∈ (List.range 255).map (· + 1) ↔ a ≠ 0 := by
  have ha := a.isLt
  simp only [List.mem_map, List.mem_range, ← BitVec.toNat_ne_iff_ne, BitVec.ofNat_eq_ofNat,
    BitVec.toNat_ofNat]
  exact ⟨by omega, fun h => ⟨a.toNat - 1, by omega⟩⟩

/-- The byte 3 generates the multiplicative group. -/
theorem exists_generatorPower_eq (a : Byte) (ha : a ≠ 0) : ∃ k < 255, generatorPower k = a := by
  rw [← mem_range_map_succ_iff, ← insertionSort_generatorPowers, (List.perm_insertionSort _ _).mem_iff,
    List.mem_map] at ha
  obtain ⟨k, hk, hpower⟩ := ha
  exact ⟨k, List.mem_range.mp hk, BitVec.eq_of_toNat_eq hpower⟩

theorem exists_fmul_eq_one (a : Byte) (ha : a ≠ 0) : ∃ i, fmul a i = 1 := by
  obtain ⟨k, hk, rfl⟩ := exists_generatorPower_eq a ha
  refine ⟨generatorPower (255 - k), ?_⟩
  rw [← generatorPower_add, show k + (255 - k) = 255 by omega, generatorPower_255]

theorem mem_nonzeroBytes_iff (a : Byte) : a ∈ nonzeroBytes ↔ a ≠ 0 := by
  rw [← mem_range_map_succ_iff, nonzeroBytes, List.mem_map, List.mem_map]
  refine exists_congr fun k => and_congr_right fun hk => ?_
  have := List.mem_range.mp hk
  rw [← BitVec.toNat_inj, BitVec.toNat_ofNat, Nat.mod_eq_of_lt (by omega)]

theorem inv_zero : inv 0 = 0 := if_pos rfl

/-- The search finds an inverse. -/
theorem fmul_inv (a : Byte) (ha : a ≠ 0) : fmul a (inv a) = 1 := by
  obtain ⟨i, hi⟩ := exists_fmul_eq_one a ha
  have hi0 : i ≠ 0 := by
    rintro rfl
    exact absurd ((fmul_zero a).symm.trans hi) (by decide)
  have hfound : (nonzeroBytes.find? fun i => fmul a i == 1).isSome :=
    List.find?_isSome.mpr ⟨i, (mem_nonzeroBytes_iff i).mpr hi0, by simp [hi]⟩
  obtain ⟨j, hj⟩ := Option.isSome_iff_exists.mp hfound
  rw [inv, if_neg ha, hj, Option.getD_some]
  simpa using List.find?_some hj

theorem fmul_eq_one_iff (a i : Byte) (ha : a ≠ 0) : fmul a i = 1 ↔ i = inv a := by
  constructor
  · intro hi
    calc i = fmul (fmul a (inv a)) i := by rw [fmul_inv a ha, one_fmul]
      _ = fmul (inv a) (fmul a i) := by rw [fmul_comm a (inv a), fmul_assoc]
      _ = inv a := by rw [hi, fmul_one]
  · rintro rfl
    exact fmul_inv a ha

theorem inv_ne_zero (a : Byte) (ha : a ≠ 0) : inv a ≠ 0 := fun hzero => by
  have hone := fmul_inv a ha
  rw [hzero, fmul_zero] at hone
  exact absurd hone (by decide)

@[simp] theorem inv_inv (a : Byte) : inv (inv a) = a := by
  obtain rfl | ha := eq_or_ne a 0
  · rw [inv_zero, inv_zero]
  · exact ((fmul_eq_one_iff _ a (inv_ne_zero a ha)).mp (by rw [fmul_comm, fmul_inv a ha])).symm

/-- Settles O42: the laws proved above, one by one. -/
theorem fieldLaws : Obligations.FieldLaws := by
  unfold Obligations.FieldLaws
  exact ⟨clmul_comm, fmul_comm, fmul_assoc, fmul_xor, xorAdditive_clmul, fmul_one, fmul_zero, fmul_inv,
    zero_fmul _, inv_inv, reduce_setWidth, xorAdditive_reduce⟩

/-- Settles O43: the two forms of `xtime`, and the uniqueness of the inverse. -/
theorem xtimeAndInverse : Obligations.XtimeAndInverse := by
  unfold Obligations.XtimeAndInverse
  exact ⟨fun a => ⟨xtime_eq_ite a, xtime_eq_fmul_two a⟩, inv_zero, fmul_eq_one_iff⟩

end Sys2Proof.Machine
end

section
/-!
The affine step of the S-box (spec/40_galois_field.md rules R205 to R207) and the field commands (rules R210 to
R216). The matrix part is linear over GF(2), so the step is injective where the matrix takes no nonzero byte
to 0, which a legal build guarantees.
-/

namespace Sys2Proof.Machine

/-! ### The affine step (R205) -/

theorem parity_and (m b : Byte) : parity (m &&& b) = xorSum 8 fun j => m.getLsbD j && b.getLsbD j := by
  simp only [parity, xorSum, BitVec.getLsbD_and]

theorem getLsbD_placedBit (v : Bool) (i j : Fin 8) :
    ((BitVec.ofBool v).setWidth 8 <<< j.val).getLsbD i.val = (decide (i = j) && v) := by
  have hi := i.isLt
  obtain hlt | rfl | hgt := lt_trichotomy i j
  · simp [hlt, hlt.ne]
  · simp
  · simp [hgt.ne', show i.val - j.val ≠ 0 by omega]

/-- Bits placed one by one, each at its own position. -/
theorem getLsbD_foldl_placedBit (f : Fin 8 → Bool) (is : List (Fin 8)) (c : Byte) (i : Fin 8) :
    (is.foldl (fun r j => r ||| ((BitVec.ofBool (f j)).setWidth 8 <<< j.val)) c).getLsbD i.val =
      (c.getLsbD i.val || (decide (i ∈ is) && f i)) := by
  induction is generalizing c with
  | nil => simp
  | cons j is ih =>
    rw [List.foldl_cons, ih, BitVec.getLsbD_or, getLsbD_placedBit]
    by_cases hij : i = j
    · subst hij
      cases f i <;> simp
    · simp [hij]

theorem getLsbD_affineLinear (rows : Vector Byte 8) (b : Byte) (i : Fin 8) :
    (affineLinear rows b).getLsbD i.val = xorSum 8 fun j => (rows[i]).getLsbD j && b.getLsbD j := by
  rw [affineLinear, getLsbD_foldl_placedBit, parity_and]
  simp

theorem xorAdditive_affineLinear (rows : Vector Byte 8) : XorAdditive (affineLinear rows) := fun b c =>
  BitVec.eq_of_getLsbD_eq fun i hi => by
    have hbit (x : Byte) := getLsbD_affineLinear rows x ⟨i, hi⟩
    dsimp only at hbit
    rw [BitVec.getLsbD_xor, hbit, hbit, hbit, ← xorSum_xor]
    simp only [BitVec.getLsbD_xor, Bool.and_xor_distrib_left]

/-! ### The default parameters (R206) -/

theorem xorAdditive_rotateLeft (n : Nat) : XorAdditive fun b : Byte => b.rotateLeft n := fun b c =>
  BitVec.eq_of_getLsbD_eq fun i hi => by
    simp only [BitVec.getLsbD_rotateLeft, BitVec.getLsbD_xor, hi, decide_true, Bool.true_and]
    cases decide (i < n % 8) <;> rfl

/-- The default matrix adds five rotations of its operand. -/
theorem affineLinear_default (b : Byte) : affineLinear Build.default.affineRow b =
    b ^^^ b.rotateLeft 1 ^^^ b.rotateLeft 2 ^^^ b.rotateLeft 3 ^^^ b.rotateLeft 4 :=
  (xorAdditive_affineLinear _).ext
    (((((xorAdditive_id 8).xor (xorAdditive_rotateLeft 1)).xor (xorAdditive_rotateLeft 2)).xor
      (xorAdditive_rotateLeft 3)).xor (xorAdditive_rotateLeft 4)) (by decide) b

/-- The inverse of the default matrix. -/
def defaultInverseRows : Vector Byte 8 := #v[0xA4, 0x49, 0x92, 0x25, 0x4A, 0x94, 0x29, 0x52]

theorem defaultInverseRows_affineLinear (b : Byte) :
    affineLinear defaultInverseRows (affineLinear Build.default.affineRow b) = b :=
  ((xorAdditive_affineLinear _).comp (xorAdditive_affineLinear _)).ext (xorAdditive_id 8) (by decide) b

theorem wellFormed_default : Build.default.wellFormed = true := by decide

/-! ### Legal builds (R207) -/

/-- An accepted matrix takes only 0 to 0: it is the default one, which has an inverse, or it was checked. -/
theorem eq_zero_of_affineLinear_eq_zero (rows : Vector Byte 8) (hrows : affineInvertible rows = true)
    (b : Byte) (hb : affineLinear rows b = 0) : b = 0 := by
  obtain hdefault | hchecked := Bool.or_eq_true_iff.mp hrows
  · rw [beq_iff_eq.mp hdefault] at hb
    rw [← defaultInverseRows_affineLinear b, hb, (xorAdditive_affineLinear _).map_zero]
  · by_contra hne
    simpa [hb] using List.all_eq_true.mp hchecked b ((mem_nonzeroBytes_iff b).mpr hne)

theorem affine_injective (bld : Build) (hbuild : bld.wellFormed = true) (b c : Byte)
    (h : affine bld b = affine bld c) : b = c := by
  have hrows : affineInvertible bld.affineRow = true := (Bool.and_eq_true_iff.mp hbuild).2
  have hsame : affineLinear bld.affineRow b = affineLinear bld.affineRow c := (BitVec.xor_left_inj _).mp h
  refine BitVec.xor_eq_zero_iff.mp (eq_zero_of_affineLinear_eq_zero _ hrows _ ?_)
  rw [xorAdditive_affineLinear, hsame, BitVec.xor_self]
  rfl

/-- Settles O44: the bits of the matrix part and of the constant; in a build with a singular matrix two bytes
meet, so the build is not legal. -/
theorem affineStepBits : Obligations.AffineStepBits := by
  unfold Obligations.AffineStepBits
  refine ⟨fun bld b i => ?_, fun b => ?_, rfl, rfl, wellFormed_default, fun bld b c hbuild =>
    affine_injective bld hbuild b c, fun s b c hne h => ?_⟩
  · rw [affine, BitVec.getLsbD_xor, getLsbD_affineLinear]
    rfl
  · rw [affine, affineLinear_default]
    rfl
  · rw [step, if_neg fun hbuild => hne (affine_injective s.build hbuild b c h), refuseBuild]

/-! ### The field commands (R210 to R216) -/

theorem resultCommand_eq_ended (v : Word) (s : State) :
    resultCommand v s = .next (ended 0 { s with res := v }) := rfl

/-- Settles O27: each command's word is its encoding, and each command is the end with its function's value. -/
theorem fieldCommandsWriteRes : Obligations.FieldCommandsWriteRes := by
  unfold Obligations.FieldCommandsWriteRes
  refine ⟨⟨decode_encode .gfPmul, decode_encode .gfReduce, decode_encode .gfXtime, decode_encode .gfMul,
    decode_encode .gfInv, decode_encode .gfAffine, decode_encode .gfSbox⟩, fun s => ?_⟩
  exact ⟨resultCommand_eq_ended _ s, resultCommand_eq_ended _ s, resultCommand_eq_ended _ s,
    resultCommand_eq_ended _ s, resultCommand_eq_ended _ s, resultCommand_eq_ended _ s,
    resultCommand_eq_ended _ s⟩

end Sys2Proof.Machine
end

section
/-!
The cipher tables (spec/41_block_cipher.md rules R251 to R253) and the commands that install and
read them (rules R260, R270, R271). The S-box is injective in a legal build, so each entry of the inverse table is
written by one byte only, and over a finite type that makes the two tables inverse on both sides.
-/

namespace Sys2Proof.Machine

/-! ### The S-box and its inverse (R251, R252) -/

theorem lookup_ofFn (f : Byte → Byte) (x : Byte) :
    lookup (Vector.ofFn fun k : Fin 256 => f (BitVec.ofNat 8 k.val)) x = f x := by
  simp [lookup]

@[simp] theorem lookup_construct_sbox (bld : Build) (key : List Byte) (x : Byte) :
    lookup (construct bld key).sbox x = sboxEntry bld x := lookup_ofFn (sboxEntry bld) x

theorem construct_invSbox (bld : Build) (key : List Byte) :
    (construct bld key).invSbox = positionalInverse (construct bld key).sbox := by
  rw [construct]

theorem sboxEntry_injective (bld : Build) (hbuild : bld.wellFormed = true) :
    Function.Injective (sboxEntry bld) := fun x y h => by
  have hinv : inv x = inv y := affine_injective bld hbuild _ _ h
  rw [← inv_inv x, hinv, inv_inv]

/-- One entry of the inverse table written (R252). -/
def writeInverse (sbox t : Vector Byte 256) (x : Nat) : Vector Byte 256 :=
  t.setIfInBounds (lookup sbox (BitVec.ofNat 8 x)).toNat (BitVec.ofNat 8 x)

theorem positionalInverse_eq_foldl (sbox : Vector Byte 256) :
    positionalInverse sbox = (List.range 256).foldl (writeInverse sbox) (Vector.replicate 256 0) := rfl

theorem lookup_writeInverse (sbox t : Vector Byte 256) (x : Nat) (y : Byte) :
    lookup (writeInverse sbox t x) y =
      if lookup sbox (BitVec.ofNat 8 x) = y then BitVec.ofNat 8 x else lookup t y := by
  rw [lookup, writeInverse, Vector.getElem_setIfInBounds]
  exact if_congr BitVec.toNat_inj rfl rfl

/-- After `n` entries the table inverts the S-box on the bytes below `n`: an entry written is not written again. -/
theorem lookup_foldl_writeInverse (sbox t : Vector Byte 256) (hinj : Function.Injective (lookup sbox))
    (n : Nat) (x : Byte) (hx : x.toNat < n) :
    lookup ((List.range n).foldl (writeInverse sbox) t) (lookup sbox x) = x := by
  induction n with
  | zero => omega
  | succ n ih =>
    rw [List.range_succ, List.foldl_append, List.foldl_cons, List.foldl_nil, lookup_writeInverse]
    split
    · next hsame => exact hinj hsame
    · next hother =>
      refine ih (Nat.lt_of_le_of_ne (Nat.le_of_lt_succ hx) fun hlast => hother ?_)
      rw [← hlast, BitVec.ofNat_toNat, BitVec.setWidth_eq]

theorem lookup_positionalInverse (sbox : Vector Byte 256) (hinj : Function.Injective (lookup sbox)) (x : Byte) :
    lookup (positionalInverse sbox) (lookup sbox x) = x := by
  rw [positionalInverse_eq_foldl]
  exact lookup_foldl_writeInverse sbox _ hinj 256 x x.isLt

/-- The S-box and the inverse table are inverse to each other. -/
structure TablesInverse (c : Cipher) : Prop where
  invSbox_sbox : ∀ x, lookup c.invSbox (lookup c.sbox x) = x
  sbox_invSbox : ∀ y, lookup c.sbox (lookup c.invSbox y) = y

theorem tablesInverse_construct (bld : Build) (key : List Byte) (hbuild : bld.wellFormed = true) :
    TablesInverse (construct bld key) := by
  have hinj : Function.Injective (lookup (construct bld key).sbox) := by
    rw [funext (lookup_construct_sbox bld key)]
    exact sboxEntry_injective bld hbuild
  have hleft : Function.LeftInverse (lookup (construct bld key).invSbox) (lookup (construct bld key).sbox) := by
    rw [construct_invSbox]
    exact lookup_positionalInverse _ hinj
  exact ⟨hleft, hleft.rightInverse_of_surjective (Finite.surjective_of_injective hinj)⟩

/-- Settles O30: the entries are read off the table, and the inverse table is one on both sides. -/
theorem sboxIsBijective : Obligations.SboxIsBijective := by
  unfold Obligations.SboxIsBijective
  intro bld key hbuild
  obtain ⟨hleft, hright⟩ := tablesInverse_construct bld key hbuild
  exact ⟨lookup_construct_sbox bld key, hleft, hright⟩

/-! ### The round constants (R253) -/

theorem getElem_rconTable (n : Nat) (hn : n < 256) : rconTable[n] = roundConstant n := by
  simp [rconTable]

theorem roundConstant_succ (n : Nat) : roundConstant (n + 2) = xtime (roundConstant (n + 1)) := rfl

theorem roundConstant_eq_iterate (n : Nat) : roundConstant (n + 1) = xtime^[n] 1 := by
  induction n with
  | zero => rfl
  | succ n ih => rw [roundConstant_succ, ih, Function.iterate_succ_apply']

theorem xtime_iterate_period : xtime^[51] 1 = 1 := by decide +kernel

theorem roundConstant_add_period (n : Nat) : roundConstant (n + 51 + 1) = roundConstant (n + 1) := by
  rw [roundConstant_eq_iterate, roundConstant_eq_iterate, Function.iterate_add_apply, xtime_iterate_period]

/-- Settles O31: the table holds the recurrence's values, which repeat because they do so once. -/
theorem roundConstantsFollowXtime : Obligations.RoundConstantsFollowXtime := by
  unfold Obligations.RoundConstantsFollowXtime
  refine ⟨fun _ _ => rfl, getElem_rconTable 0 (by omega), getElem_rconTable 1 (by omega), fun n hn => ?_,
    fun n hn => ?_⟩
  · obtain ⟨k, hk⟩ : ∃ k, n.val = k + 2 := ⟨n.val - 2, by omega⟩
    simp only [Fin.getElem_fin, getElem_rconTable, hk]
    exact roundConstant_succ k
  · obtain ⟨k, hk⟩ : ∃ k, n.val = k + 1 := ⟨n.val - 1, by omega⟩
    rw [getElem_rconTable, getElem_rconTable, hk, show k + 1 + 51 = k + 51 + 1 by omega,
      roundConstant_add_period]

/-! ### The table lookups (R270, R271) -/

theorem firstError_lookup_eq_none (i : Instr) (s : State) (hkey : s.keyValid = true)
    (hi : i = .sboxLookup ∨ i = .invsboxLookup) : firstError i s = none := by
  obtain rfl | rfl := hi <;> simp [firstError_none_iff, checks, hkey]

theorem exec_sboxLookup_of_key (s : State) (hkey : s.keyValid = true) :
    exec .sboxLookup s = resultCommand ((lookup s.cipher.sbox (opA8 s)).setWidth 32) s :=
  lookupCommand_of_checked .sboxLookup _ s (firstError_lookup_eq_none _ s hkey (.inl rfl))

theorem exec_invsboxLookup_of_key (s : State) (hkey : s.keyValid = true) :
    exec .invsboxLookup s = resultCommand ((lookup s.cipher.invSbox (opA8 s)).setWidth 32) s :=
  lookupCommand_of_checked .invsboxLookup _ s (firstError_lookup_eq_none _ s hkey (.inr rfl))

theorem exec_gfSbox (s : State) :
    exec .gfSbox s = resultCommand ((sboxEntry s.build (opA8 s)).setWidth 32) s := by
  rfl

/-- A command that needs the tables ends with `ERR_NOKEY` where there are none (R40). -/
theorem exec_of_noKey (i : Instr) (s : State) (hkey : s.keyValid = false)
    (hi : i ∈ [Instr.sboxLookup, .invsboxLookup, .encBlock, .decBlock, .cbcEnc, .cbcDec]) :
    exec i s = .next (ended 3 s) :=
  exec_of_firstError i s .noKey (firstError_noKey i s hkey hi)

/-- Settles O28: the installed S-box holds the entries that GF_SBOX computes. -/
theorem lookupsReadTheTables : Obligations.LookupsReadTheTables := by
  unfold Obligations.LookupsReadTheTables
  refine ⟨⟨decode_encode .sboxLookup, decode_encode .invsboxLookup⟩, fun s => ⟨fun hkey => ?_, fun hkey => ?_,
    fun hkey ⟨key, _, hcipher⟩ => ?_⟩⟩
  · exact ⟨exec_of_noKey _ s hkey (by simp), exec_of_noKey _ s hkey (by simp)⟩
  · rw [exec_sboxLookup_of_key s hkey, exec_invsboxLookup_of_key s hkey]
    exact ⟨resultCommand_eq_ended _ s, resultCommand_eq_ended _ s⟩
  · rw [exec_sboxLookup_of_key s hkey, hcipher, lookup_construct_sbox, exec_gfSbox]

/-! ### KEY_INIT (R260) -/

theorem firstError_keyInit_of_unsupported (s : State)
    (h16 : s.keyLen ≠ 16) (h24 : s.keyLen ≠ 24) (h32 : s.keyLen ≠ 32) :
    firstError .keyInit s = some .keyLen := by
  simp_all [firstError, checks]

/-- Settles O29: the one check of KEY_INIT decides between its two ends. -/
theorem keyInitInstallsOrFails : Obligations.KeyInitInstallsOrFails := by
  unfold Obligations.KeyInitInstallsOrFails
  refine ⟨decode_encode .keyInit, fun s => ⟨fun h16 h24 h32 => ?_, fun hlen => ?_⟩⟩
  · exact exec_of_firstError .keyInit s .keyLen
      (firstError_keyInit_of_unsupported s h16 h24 h32)
  · rw [exec, execKeyInit, (firstError_keyInit_eq_none_iff s).mpr hlen]
    rfl

end Sys2Proof.Machine
end

section
/-!
The key schedule (spec/41_block_cipher.md rules R254 to R256). The loop only appends words, so a word of the schedule
is the one computed when its turn came; that the words so far follow the recurrence is an invariant of the loop.
-/

namespace Sys2Proof.Machine

/-- Word `j` of a list of key words. -/
def wordAt (w : List KeyWord) (j : Nat) : KeyWord := w.getD j (Vector.replicate 4 0)

theorem wordAt_append_left (w v : List KeyWord) (j : Nat) (hj : j < w.length) :
    wordAt (w ++ v) j = wordAt w j := List.getD_append w v _ j hj

theorem wordAt_append_last (w : List KeyWord) (t : KeyWord) : wordAt (w ++ [t]) w.length = t := by
  simp [wordAt]

/-- Word `i` by the recurrence of R255, over the words before it. -/
def nextWord (sbox rcon : Vector Byte 256) (nk : Nat) (w : List KeyWord) (i : Nat) : KeyWord :=
  xorWord (wordAt w (i - nk)) (scheduleTemp sbox rcon nk i (i / nk) (wordAt w (i - 1)))

/-- The words from the key's last one on follow the recurrence. -/
def FollowsSchedule (sbox rcon : Vector Byte 256) (nk : Nat) (w : List KeyWord) : Prop :=
  ∀ i, nk ≤ i → i < w.length → wordAt w i = nextWord sbox rcon nk w i

section
variable (sbox rcon : Vector Byte 256) (nk : Nat)

/-- A word reads only the words before it. -/
theorem nextWord_append (hnk : 0 < nk) (w v : List KeyWord) (i : Nat) (hi : nk ≤ i) (hlen : i ≤ w.length) :
    nextWord sbox rcon nk (w ++ v) i = nextWord sbox rcon nk w i := by
  rw [nextWord, nextWord, wordAt_append_left _ _ _ (by omega), wordAt_append_left _ _ _ (by omega)]

theorem followsSchedule_append (hnk : 0 < nk) (w : List KeyWord) (h : FollowsSchedule sbox rcon nk w) :
    FollowsSchedule sbox rcon nk (w ++ [nextWord sbox rcon nk w w.length]) := fun i hi hlen => by
  rw [List.length_append, List.length_singleton] at hlen
  rw [nextWord_append sbox rcon nk hnk w _ i hi (by omega)]
  obtain hlt | rfl := Nat.lt_or_eq_of_le (Nat.le_of_lt_succ hlen)
  · rw [wordAt_append_left _ _ _ hlt, h i hi hlt]
  · rw [wordAt_append_last]

/-- The loop's counter of round constants is one more than the rotations so far, so at a rotation it is `i / nk`. -/
theorem scheduleTemp_of_counter (k : Nat) (prev : KeyWord) :
    scheduleTemp sbox rcon nk (k + 1) (k / nk + 1) prev =
      scheduleTemp sbox rcon nk (k + 1) ((k + 1) / nk) prev := by
  unfold scheduleTemp
  split
  · next hrotate => rw [Nat.succ_div_of_dvd (Nat.dvd_of_mod_eq_zero hrotate)]
  · rfl

theorem counter_step (k : Nat) :
    (if (k + 1) % nk = 0 then k / nk + 1 + 1 else k / nk + 1) = (k + 1) / nk + 1 := by
  simp only [Nat.succ_div, Nat.dvd_iff_mod_eq_zero]
  split <;> rfl

/-- One turn of the loop appends the next word of the recurrence. -/
theorem scheduleFrom_succ (n k : Nat) (w : List KeyWord) (hk : w.length = k + 1) :
    scheduleFrom sbox rcon nk (n + 1) (k + 1) (k / nk + 1) w =
      scheduleFrom sbox rcon nk n (k + 2) ((k + 1) / nk + 1) (w ++ [nextWord sbox rcon nk w w.length]) := by
  rw [scheduleFrom, counter_step, scheduleTemp_of_counter, hk]
  rfl

/-- The loop keeps the words that it finds, adds `n` words, and keeps them following the recurrence. -/
theorem scheduleFrom_spec (hnk : 0 < nk) (n k : Nat) (w : List KeyWord) (hk : w.length = k + 1)
    (h : FollowsSchedule sbox rcon nk w) :
    (∀ j < w.length, wordAt (scheduleFrom sbox rcon nk n (k + 1) (k / nk + 1) w) j = wordAt w j) ∧
    (scheduleFrom sbox rcon nk n (k + 1) (k / nk + 1) w).length = w.length + n ∧
    FollowsSchedule sbox rcon nk (scheduleFrom sbox rcon nk n (k + 1) (k / nk + 1) w) := by
  induction n generalizing k w with
  | zero => exact ⟨fun _ _ => rfl, rfl, h⟩
  | succ n ih =>
    rw [scheduleFrom_succ sbox rcon nk n k w hk]
    have hlen : (w ++ [nextWord sbox rcon nk w w.length]).length = w.length + 1 := by simp
    obtain ⟨hkept, hadded, hfollows⟩ := ih (k + 1) _ (by rw [hlen, hk])
      (followsSchedule_append sbox rcon nk hnk w h)
    refine ⟨fun j hj => ?_, by rw [hadded, hlen]; omega, hfollows⟩
    rw [hkept j (by omega), wordAt_append_left _ _ _ hj]

end

theorem wordAt_keyWords (key : List Byte) (n j : Nat) (hj : j < n) :
    wordAt ((List.range n).map (keyWord key)) j = keyWord key j := by
  simp [wordAt, List.getD, hj]

/-- The schedule of a supported key: 68 words, the first of them the key's, the others by the recurrence. -/
theorem schedule_spec (sbox rcon : Vector Byte 256) (key : List Byte)
    (hkey : key.length = 16 ∨ key.length = 24 ∨ key.length = 32) :
    (∀ j < key.length / 4, wordAt (schedule sbox rcon key) j = keyWord key j) ∧
    (schedule sbox rcon key).length = 68 ∧
    FollowsSchedule sbox rcon (key.length / 4) (schedule sbox rcon key) := by
  obtain ⟨k, hk⟩ : ∃ k, key.length / 4 = k + 1 := ⟨key.length / 4 - 1, by omega⟩
  have hwords : ((List.range (k + 1)).map (keyWord key)).length = k + 1 := by simp
  obtain ⟨hkept, hadded, hfollows⟩ := scheduleFrom_spec sbox rcon (k + 1) k.succ_pos
    (4 * (rounds + 1) - (k + 1)) k _ hwords fun i hi hlen => by omega
  rw [Nat.div_eq_of_lt (Nat.lt_succ_self k)] at hkept hadded hfollows
  rw [schedule, hk]
  refine ⟨fun j hj => ?_, by rw [hadded, hwords, rounds]; omega, hfollows⟩
  rw [hkept j (by rwa [hwords]), wordAt_keyWords key _ j hj]

/-! ### The words byte by byte -/

/-- Byte `b` of word `i` stands in round key `i / 4`, at byte `4 (i mod 4) + b` (R256). -/
theorem getElem_groupRoundKeys (w : List KeyWord) (i b : Nat) (hi : i < 68) (hb : b < 4) :
    (groupRoundKeys w)[i / 4][4 * (i % 4) + b] = (wordAt w i)[b] := by
  simp only [groupRoundKeys, Vector.getElem_ofFn, show (4 * (i % 4) + b) / 4 = i % 4 by omega,
    show (4 * (i % 4) + b) % 4 = b by omega, Nat.div_add_mod, vector_getD_of_lt _ b hb, wordAt]

theorem getElem_keyWord (key : List Byte) (i b : Nat) (hb : b < 4) :
    (keyWord key i)[b] = key.getD (4 * i + b) 0 := by
  simp [keyWord]

theorem getElem_xorWord (t u : KeyWord) (b : Nat) (hb : b < 4) : (xorWord t u)[b] = t[b] ^^^ u[b] := by
  simp [xorWord]

theorem getElem_subWord (sbox : Vector Byte 256) (t : KeyWord) (b : Nat) (hb : b < 4) :
    (subWord sbox t)[b] = lookup sbox t[b] := by
  simp [subWord]

theorem getElem_rotWord (t : KeyWord) (b : Fin 4) : (rotWord t)[b.val] = t[(b.val + 1) % 4] := by
  fin_cases b <;> rfl

theorem getElem_constantWord (c : Byte) (b : Fin 4) :
    (#v[c, 0, 0, 0] : KeyWord)[b.val] = if b = 0 then c else 0 := by
  fin_cases b <;> rfl

/-- Byte `b` of the transformed preceding word (R255). -/
theorem getElem_scheduleTemp (sbox rcon : Vector Byte 256) (nk i rc : Nat) (prev : KeyWord) (b : Fin 4) :
    (scheduleTemp sbox rcon nk i rc prev)[b.val] =
      if i % nk = 0 then lookup sbox prev[(b.val + 1) % 4] ^^^ (if b = 0 then rcon.getD rc 0 else 0)
      else if nk = 8 ∧ i % nk = 4 then lookup sbox prev[b.val]
      else prev[b.val] := by
  unfold scheduleTemp
  split
  · rw [getElem_xorWord, getElem_subWord, getElem_rotWord, getElem_constantWord]
  · split
    · rw [getElem_subWord]
    · rfl

theorem construct_rk (bld : Build) (key : List Byte) :
    (construct bld key).rk = groupRoundKeys (schedule (construct bld key).sbox rconTable key) := by
  rw [construct]

/-- The middle substitution belongs to 32-byte keys, whose 8 words it counts in. -/
theorem middleSubstitution_iff (key : List Byte) (i : Nat)
    (hkey : key.length = 16 ∨ key.length = 24 ∨ key.length = 32) :
    key.length / 4 = 8 ∧ i % (key.length / 4) = 4 ↔ key.length = 32 ∧ i % 8 = 4 := by
  obtain h | h | h := hkey <;> simp [h]

/-- Settles O32: the schedule's words, read byte by byte out of the round keys. -/
theorem keyScheduleRecurrence : Obligations.KeyScheduleRecurrence := by
  unfold Obligations.KeyScheduleRecurrence
  intro bld key hkey i b
  obtain ⟨hfirst, hlen, hlater⟩ := schedule_spec (construct bld key).sbox rconTable key hkey
  have hb : (b.val + 1) % 4 < 4 := by omega
  simp only [construct_rk bld key]
  refine ⟨fun hi => ?_, fun hi => ?_⟩
  · rw [getElem_groupRoundKeys _ _ _ i.isLt b.isLt, hfirst i hi, getElem_keyWord _ _ _ b.isLt]
  · rw [getElem_groupRoundKeys _ i.val _ i.isLt b.isLt, getElem_groupRoundKeys _ (i.val - 1) _ (by omega) b.isLt,
      getElem_groupRoundKeys _ (i.val - 1) _ (by omega) hb,
      getElem_groupRoundKeys _ (i.val - key.length / 4) _ (by omega) b.isLt,
      hlater i hi (by omega), nextWord, getElem_xorWord _ _ _ b.isLt, getElem_scheduleTemp]
    simp only [middleSubstitution_iff key i.val hkey]

end Sys2Proof.Machine
end

section
/-!
The round functions and their inverses (spec/41_block_cipher.md rules R276 to R286). Both mixings are circulant
matrices over the field; the product of two circulants is the circulant of their coefficients' convolution, which for
the two mixings is the identity's. Each round is undone by its inverse round, and so is a sequence of rounds by the
inverse rounds in reverse order.
-/

namespace Sys2Proof.Machine

/-! ### Column mixing (R280, R282) -/

/-- The circulant matrix with the coefficients `c` in row 0, applied to a vector. -/
def circulant (c a : Fin 4 → Byte) (k : Fin 4) : Byte :=
  fmul (c 0) (a k) ^^^ fmul (c 1) (a (k + 1)) ^^^ fmul (c 2) (a (k + 2)) ^^^ fmul (c 3) (a (k + 3))

/-- The coefficients of the product of two circulants. -/
def convolve (c d : Fin 4 → Byte) (k : Fin 4) : Byte :=
  fmul (c 0) (d k) ^^^ fmul (c 1) (d (k - 1)) ^^^ fmul (c 2) (d (k - 2)) ^^^ fmul (c 3) (d (k - 3))

theorem circulant_circulant (c d a : Fin 4 → Byte) : circulant c (circulant d a) = circulant (convolve c d) a := by
  funext k
  have hsum (i j : Fin 4) : k + i + j = k + (i + j) := add_assoc k i j
  simp only [circulant, convolve, fmul_xor, xor_fmul, fmul_assoc, hsum]
  simp only [Fin.isValue, Fin.reduceAdd, Fin.reduceSub, add_zero]
  ac_rfl

theorem circulant_one (a : Fin 4 → Byte) : circulant ![1, 0, 0, 0] a = a := by
  funext k
  change fmul 1 (a k) ^^^ fmul 0 (a (k + 1)) ^^^ fmul 0 (a (k + 2)) ^^^ fmul 0 (a (k + 3)) = a k
  rw [one_fmul, zero_fmul, zero_fmul, zero_fmul, BitVec.ofNat_eq_ofNat, BitVec.xor_zero, BitVec.xor_zero,
    BitVec.xor_zero]

/-- The coefficients of `mixvec` and of `invmixvec`. -/
def mixCoeffs : Fin 4 → Byte := ![0x02, 0x03, 0x01, 0x01]

def invMixCoeffs : Fin 4 → Byte := ![0x0E, 0x0B, 0x0D, 0x09]

theorem xor_of_vector (a : Fin 4 → Byte) (k : Fin 4) :
    a 0 ^^^ a 1 ^^^ a 2 ^^^ a 3 = a k ^^^ a (k + 1) ^^^ a (k + 2) ^^^ a (k + 3) := by
  fin_cases k
  · rfl
  · change _ = a 1 ^^^ a 2 ^^^ a 3 ^^^ a 0
    ac_rfl
  · change _ = a 2 ^^^ a 3 ^^^ a 0 ^^^ a 1
    ac_rfl
  · change _ = a 3 ^^^ a 0 ^^^ a 1 ^^^ a 2
    ac_rfl

theorem fmul_three (x : Byte) : fmul 0x03 x = xtime x ^^^ x := by
  rw [show (0x03 : Byte) = 0x02 ^^^ 0x01 by decide, xor_fmul, one_fmul, xtime_eq_fmul_two, fmul_comm]

/-- The running-total form as a matrix: the total cancels the element itself. -/
theorem mixVec_eq (a : Fin 4 → Byte) (k : Fin 4) :
    mixVec a k = fmul 0x02 (a k) ^^^ fmul 0x03 (a (k + 1)) ^^^ a (k + 2) ^^^ a (k + 3) :=
  calc mixVec a k
    _ = a k ^^^ (a k ^^^ (a (k + 1) ^^^ a (k + 2) ^^^ a (k + 3))) ^^^ (xtime (a k) ^^^ xtime (a (k + 1))) := by
      rw [mixVec, xor_of_vector a k, xorAdditive_xtime]
      ac_rfl
    _ = xtime (a k) ^^^ (xtime (a (k + 1)) ^^^ a (k + 1)) ^^^ a (k + 2) ^^^ a (k + 3) := by
      rw [← BitVec.xor_assoc (a k) (a k), BitVec.xor_self, BitVec.zero_xor]
      ac_rfl
    _ = fmul 0x02 (a k) ^^^ fmul 0x03 (a (k + 1)) ^^^ a (k + 2) ^^^ a (k + 3) := by
      rw [fmul_three, xtime_eq_fmul_two (a k), fmul_comm (a k)]

theorem mixVec_eq_circulant (a : Fin 4 → Byte) : mixVec a = circulant mixCoeffs a := by
  funext k
  rw [mixVec_eq, ← one_fmul (a (k + 2)), ← one_fmul (a (k + 3))]
  rfl

theorem invMixVec_eq_circulant (a : Fin 4 → Byte) : invMixVec a = circulant invMixCoeffs a := rfl

theorem convolve_mixCoeffs :
    convolve invMixCoeffs mixCoeffs = ![1, 0, 0, 0] ∧ convolve mixCoeffs invMixCoeffs = ![1, 0, 0, 0] := by
  decide

theorem invMixVec_mixVec (a : Fin 4 → Byte) : invMixVec (mixVec a) = a := by
  rw [invMixVec_eq_circulant, mixVec_eq_circulant, circulant_circulant, convolve_mixCoeffs.1, circulant_one]

theorem mixVec_invMixVec (a : Fin 4 → Byte) : mixVec (invMixVec a) = a := by
  rw [mixVec_eq_circulant, invMixVec_eq_circulant, circulant_circulant, convolve_mixCoeffs.2, circulant_one]

/-- Settles O45: the matrix form of the running total, and the two products of the matrices. -/
theorem mixingIsInvertible : Obligations.MixingIsInvertible := by
  unfold Obligations.MixingIsInvertible
  exact ⟨fun a k => ⟨rfl, mixVec_eq a k, rfl⟩, invMixVec_mixVec, mixVec_invMixVec⟩

/-! ### The inverse of each round function (R276, R277, R279, R283) -/

@[simp] theorem addRoundKey_addRoundKey (c : Cipher) (r : Nat) (b : Block) :
    addRoundKey c r (addRoundKey c r b) = b :=
  Block.ext_at _ _ fun i j => by
    rw [at_addRoundKey, at_addRoundKey, BitVec.xor_assoc, BitVec.xor_self, BitVec.xor_zero]

@[simp] theorem invShiftRows_shiftRows (o : Orient) (b : Block) : invShiftRows o (shiftRows o b) = b :=
  Block.ext_at _ _ fun i j => by cases o <;> simp

@[simp] theorem shiftRows_invShiftRows (o : Orient) (b : Block) : shiftRows o (invShiftRows o b) = b :=
  Block.ext_at _ _ fun i j => by cases o <;> simp

/-- Vector functions that undo each other do so on each vector of the state. -/
theorem mapVectors_mapVectors (o : Orient) (f g : (Fin 4 → Byte) → Fin 4 → Byte) (hfg : ∀ a, g (f a) = a)
    (b : Block) : mapVectors o g (mapVectors o f b) = b :=
  Block.ext_at _ _ fun i j => by cases o <;> simp [hfg]

@[simp] theorem invMixColumns_mixColumns (o : Orient) (b : Block) : invMixColumns o (mixColumns o b) = b :=
  mapVectors_mapVectors o mixVec invMixVec invMixVec_mixVec b

@[simp] theorem mixColumns_invMixColumns (o : Orient) (b : Block) : mixColumns o (invMixColumns o b) = b :=
  mapVectors_mapVectors o invMixVec mixVec mixVec_invMixVec b

/-! ### Rounds and blocks (R284 to R286) -/

/-- A sequence of steps is undone by the steps that undo them, in reverse order. -/
theorem foldl_reverse_foldl {α β : Type} (f g : α → β → α) (hfg : ∀ a b, g (f a b) b = a) (l : List β) (a : α) :
    l.reverse.foldl g (l.foldl f a) = a := by
  induction l generalizing a with
  | nil => rfl
  | cons b l ih => 
    rw [List.reverse_cons, List.foldl_append, List.foldl_cons, List.foldl_cons, ih, List.foldl_nil, hfg]

section
variable {c : Cipher} (htables : TablesInverse c) (o : Orient)
include htables

theorem invSubBytes_subBytes (b : Block) : invSubBytes c (subBytes c b) = b :=
  Block.ext_at _ _ fun i j => by rw [at_invSubBytes, at_subBytes, htables.invSbox_sbox]

theorem subBytes_invSubBytes (b : Block) : subBytes c (invSubBytes c b) = b :=
  Block.ext_at _ _ fun i j => by rw [at_subBytes, at_invSubBytes, htables.sbox_invSbox]

theorem decRound_encRound (b : Block) (r : Nat) : decRound c o (encRound c o b r) r = b := by
  simp [decRound, encRound, invSubBytes_subBytes htables]

theorem encRound_decRound (b : Block) (r : Nat) : encRound c o (decRound c o b r) r = b := by
  simp [decRound, encRound, subBytes_invSubBytes htables]

theorem decrypt_encrypt (x : Block) : decrypt c o (encrypt c o x) = x := by
  simp [decrypt, encrypt, invSubBytes_subBytes htables, foldl_reverse_foldl _ _ (decRound_encRound htables o)]

theorem encrypt_decrypt (x : Block) : encrypt c o (decrypt c o x) = x := by
  have hrounds (b : Block) : (List.range' 1 (rounds - 1)).foldl (encRound c o)
      ((List.range' 1 (rounds - 1)).reverse.foldl (decRound c o) b) = b := by
    have h := foldl_reverse_foldl _ _ (encRound_decRound htables o) (List.range' 1 (rounds - 1)).reverse b
    rwa [List.reverse_reverse] at h
  simp only [decrypt, encrypt, addRoundKey_addRoundKey, hrounds, subBytes_invSubBytes htables,
    shiftRows_invShiftRows]

end

/-- Settles O46: the tables of a legal build are inverse to each other, so every round is undone. -/
theorem blockRoundTrip : Obligations.BlockRoundTrip := by
  unfold Obligations.BlockRoundTrip
  intro bld key x hbuild _
  have htables := tablesInverse_construct bld key hbuild
  exact ⟨decrypt_encrypt htables bld.orient x, encrypt_decrypt htables bld.orient x⟩

end Sys2Proof.Machine
end

section
/-!
The ends of the memory commands (spec/20_memory.md rules R103, R107, R108, R115): the two buffer checks in the words
of the statements, the end in success of an undisturbed command, and the end with `ERR_BUS`.
-/

namespace Sys2Proof.Machine

/-! ### The buffer checks (R103, R107) -/

theorem inRange_eq_true_iff_fits (memSize : Nat) (b : Buffer) :
    inRange memSize b = true ↔ Fits memSize b.start b.size := inRange_iff memSize b

theorem overlap_eq_true_iff_not_apart (b c : Buffer) :
    overlap b c = true ↔ ¬Apart b.start b.size c.start c.size := by
  rw [overlap_iff]
  omega

theorem rangeError_iff (i : Instr) (s : State) :
    rangeError i s = true ↔
      ¬∀ b ∈ readBuffers i s ++ writeBuffers i s, Fits s.build.memSize b.start b.size := by
  simp only [rangeError, Bool.not_eq_true', ← Bool.not_eq_true, List.all_eq_true, inRange_eq_true_iff_fits]

theorem overlapError_iff (i : Instr) (s : State) :
    overlapError i s = true ↔ ∃ r ∈ readBuffers i s, ∃ w ∈ writeBuffers i s,
      ¬Apart r.start r.size w.start w.size ∧ ¬(inPlaceAllowed i = true ∧ r.start = w.start) := by
  simp only [overlapError, List.any_eq_true, Bool.and_eq_true, overlap_eq_true_iff_not_apart,
    Bool.not_eq_true', ← Bool.not_eq_true, beq_iff_eq]

section
variable {i : Instr} {s : State} {n m : Nat} (hread : readBuffers i s = [⟨s.srcAddr.toNat, n⟩])
  (hwrite : writeBuffers i s = [⟨s.dstAddr.toNat, m⟩])
include hread hwrite

theorem rangeError_iff_of_buffers :
    rangeError i s = true ↔
      ¬(Fits s.build.memSize s.srcAddr.toNat n ∧ Fits s.build.memSize s.dstAddr.toNat m) := by
  simp [rangeError_iff, hread, hwrite]

theorem overlapError_iff_of_inPlace (hplace : inPlaceAllowed i = true) :
    overlapError i s = true ↔ s.srcAddr ≠ s.dstAddr ∧ ¬Apart s.srcAddr.toNat n s.dstAddr.toNat m := by
  simp only [overlapError_iff, hread, hwrite, List.mem_singleton, exists_eq_left, hplace, true_and,
    BitVec.toNat_inj]
  exact and_comm

end

/-! ### The two ends after the checks (R108, R115) -/

/-- What `MemWrite` has written is what `MemRead` of the same bytes returns. -/
theorem Memory.readBytes_writeBytes (m : Memory) (a n : Nat) (vs : List Byte) (hlen : vs.length = n) :
    (m.writeBytes a vs).readBytes a n = vs := by
  subst hlen
  refine List.ext_getElem (Memory.length_readBytes _ _ _) fun k hk hvs => ?_
  simp [Memory.readBytes, Memory.read_writeBytes, hvs, List.getD]

theorem storeResult_of_fits (r : MemResult) (s : State) (hlen : r.outLen < 2 ^ 32) :
    storeResult r s =
      { s with
        mem := s.mem.writeBytes s.dstAddr.toNat r.bytes
        outLen := BitVec.ofNat 32 r.outLen
        freeIx := s.freeIx + r.draws } := setOutLen_fits _ _ hlen

/-- An undisturbed memory command that passes its checks ends in success with its results stored. -/
theorem exec_of_undisturbed (i : Instr) (s : State) (hmem : accessesMemory i = true)
    (hchecked : firstError i s = none) (hcalm : Undisturbed s) :
    exec i s = .next (ended 0 (storeResult (memResult i s) s)) := by
  rw [exec_of_checked i s hmem hchecked, finishMemory_undisturbed i _ s hcalm]
  rfl

/-- A memory command that a bus error reaches, with no read buffer written by another agent. -/
theorem endsInBusError_of_checked (i : Instr) (s : State) (a n : Nat) (hmem : accessesMemory i = true)
    (hchecked : firstError i s = none) (hwrite : writeBuffers i s = [⟨a, n⟩])
    (hreach : busErrorReaches i s = true) (hread : s.hazard.readHit = false) : EndsInBusError i s a n := by
  obtain ⟨t, hexec, ht, hkept, houtside, -⟩ := exec_of_busError i s hmem hchecked hreach
  rw [hkept hread] at ht
  refine ⟨t, hexec, ht, fun x hx => houtside x ?_⟩
  rw [← Bool.not_eq_true, hwrite, inBuffers, List.any_cons, List.any_nil, Bool.or_false, inBuffer_iff]
  exact hx

end Sys2Proof.Machine
end

section
/-!
ENC_BLOCK and DEC_BLOCK (spec/41_block_cipher.md rules R290, R291): the two commands differ in the function that is
applied to the source block only, so their checks and their ends are said once for both.
-/

namespace Sys2Proof.Machine

/-- The two commands on one block. -/
def IsBlockCommand (i : Instr) : Prop := i = .encBlock ∨ i = .decBlock

section
variable {i : Instr} (hi : IsBlockCommand i)
include hi

theorem accessesMemory_of_block : accessesMemory i = true := by
  obtain rfl | rfl := hi <;> rfl

theorem readBuffers_of_block (s : State) : readBuffers i s = [⟨s.srcAddr.toNat, 16⟩] := by
  obtain rfl | rfl := hi <;> rfl

theorem writeBuffers_of_block (s : State) : writeBuffers i s = [⟨s.dstAddr.toNat, 16⟩] := by
  obtain rfl | rfl := hi <;> rfl

theorem rangeError_of_block_iff (s : State) :
    rangeError i s = true ↔
      ¬(Fits s.build.memSize s.srcAddr.toNat 16 ∧ Fits s.build.memSize s.dstAddr.toNat 16) :=
  rangeError_iff_of_buffers (readBuffers_of_block hi s) (writeBuffers_of_block hi s)

theorem overlapError_of_block_iff (s : State) :
    overlapError i s = true ↔ s.srcAddr ≠ s.dstAddr ∧ ¬Apart s.srcAddr.toNat 16 s.dstAddr.toNat 16 :=
  overlapError_iff_of_inPlace (readBuffers_of_block hi s) (writeBuffers_of_block hi s)
    (by obtain rfl | rfl := hi <;> rfl)

theorem checks_of_block (s : State) :
    checks i s = [(.noKey, !s.keyValid), (.blkLen, lenOf s != 16), (.range, rangeError i s),
      (.overlap, overlapError i s)] := by
  obtain rfl | rfl := hi <;> rfl

variable (s : State)

theorem block_noKey (hkey : s.keyValid = false) : exec i s = .next (ended 3 s) :=
  exec_of_noKey i s hkey (by obtain rfl | rfl := hi <;> simp)

theorem block_badLength (hkey : s.keyValid = true) (hlen : s.len ≠ 16) : exec i s = .next (ended 4 s) := by
  refine exec_of_firstError i s .blkLen ?_
  have hne : lenOf s ≠ 16 := fun h => hlen (BitVec.eq_of_toNat_eq h)
  simp [firstError, checks_of_block hi, hkey, hne]

variable (hkey : s.keyValid = true) (hlen : s.len = 16)
include hkey hlen

theorem block_outOfRange
    (hrange : ¬(Fits s.build.memSize s.srcAddr.toNat 16 ∧ Fits s.build.memSize s.dstAddr.toNat 16)) :
    exec i s = .next (ended 10 s) := by
  refine exec_of_firstError i s .range ?_
  simp [firstError, checks_of_block hi, hkey, lenOf, hlen, (rangeError_of_block_iff hi s).mpr hrange]

variable (hsrc : Fits s.build.memSize s.srcAddr.toNat 16) (hdst : Fits s.build.memSize s.dstAddr.toNat 16)
include hsrc hdst

omit hkey hlen in
theorem rangeError_of_block_eq_false : rangeError i s = false := by
  simp [← Bool.not_eq_true, rangeError_of_block_iff hi, hsrc, hdst]

theorem block_overlapping (hne : s.srcAddr ≠ s.dstAddr)
    (hoverlap : ¬Apart s.srcAddr.toNat 16 s.dstAddr.toNat 16) : exec i s = .next (ended 11 s) := by
  refine exec_of_firstError i s .overlap ?_
  have hrange := rangeError_of_block_eq_false hi s hsrc hdst
  simp [firstError, checks_of_block hi, hkey, lenOf, hlen, hrange,
    (overlapError_of_block_iff hi s).mpr ⟨hne, hoverlap⟩]

variable (hapart : s.srcAddr = s.dstAddr ∨ Apart s.srcAddr.toNat 16 s.dstAddr.toNat 16)
include hapart

theorem firstError_of_block_eq_none : firstError i s = none := by
  have hrange := rangeError_of_block_eq_false hi s hsrc hdst
  have hoverlap : overlapError i s = false := by
    rw [← Bool.not_eq_true, overlapError_of_block_iff hi, not_and_not_right]
    exact hapart.resolve_left
  simp [firstError_none_iff, checks_of_block hi, hkey, lenOf, hlen, hrange, hoverlap]

theorem block_busError (hbus : s.hazard.busError = true) (hread : s.hazard.readHit = false) :
    EndsInBusError i s s.dstAddr.toNat 16 := by
  have hchecked := firstError_of_block_eq_none hi s hkey hlen hsrc hdst hapart
  refine endsInBusError_of_checked i s _ 16 (accessesMemory_of_block hi) hchecked (writeBuffers_of_block hi s)
    ((busErrorReaches_iff i s).mpr ⟨hbus, ⟨s.dstAddr.toNat, 16⟩, ?_, Nat.succ_pos _⟩) hread
  simp [writeBuffers_of_block hi]

/-- The end in success, with `b` the block that the command computes. -/
theorem block_success (b : Block) (hcalm : Undisturbed s)
    (hresult : memResult i s = { bytes := b.store, outLen := 16 }) :
    ∃ t, exec i s = .next t ∧ t = ended 0 { s with mem := t.mem, outLen := 16 } ∧
      t.mem.readBytes s.dstAddr.toNat 16 = b.store ∧
      ∀ a, ¬(s.dstAddr.toNat ≤ a ∧ a < s.dstAddr.toNat + 16) → t.mem.read a = s.mem.read a := by
  have hchecked := firstError_of_block_eq_none hi s hkey hlen hsrc hdst hapart
  have hexec := exec_of_undisturbed i s (accessesMemory_of_block hi) hchecked hcalm
  rw [hresult, storeResult_of_fits _ _ (show 16 < 2 ^ 32 by decide)] at hexec
  refine ⟨_, hexec, rfl, Memory.readBytes_writeBytes _ _ _ _ b.length_store, fun a ha => ?_⟩
  exact Memory.read_writeBytes_outside _ _ _ _ (by rwa [Block.length_store])

end

/-! ### The steps of `E` and `D`, byte by byte (R275 to R285) -/

theorem getD_store (b : Block) (i j : Fin 4) : b.store.getD (4 * i.val + j.val) 0 = b.at i j := by
  conv_rhs => rw [← b.load_store, Block.at_load]

theorem getD_rk (c : Cipher) (r : Fin 17) : c.rk.getD r.val (Vector.replicate 16 0) = c.rk[r] :=
  vector_getD_of_lt c.rk r.val r.isLt _

theorem at_addRoundKey_of_round (c : Cipher) (r : Fin 17) (b : Block) (i j : Fin 4) :
    (addRoundKey c r.val b).at i j = b.at i j ^^^ (c.rk[r]).at i j := by
  rw [at_addRoundKey, getD_rk]

theorem at_subBytes_getD (c : Cipher) (b : Block) (i j : Fin 4) :
    (subBytes c b).at i j = c.sbox.getD (b.at i j).toNat 0 := by
  rw [at_subBytes, lookup_eq_getD]

theorem at_invSubBytes_getD (c : Cipher) (b : Block) (i j : Fin 4) :
    (invSubBytes c b).at i j = c.invSbox.getD (b.at i j).toNat 0 := by
  rw [at_invSubBytes, lookup_eq_getD]

/-- Settles O33: the bytes after each step, the rounds written out, and the command's six ends. -/
theorem encBlockEffect : Obligations.EncBlockEffect := by
  unfold Obligations.EncBlockEffect
  have hi : IsBlockCommand .encBlock := .inl rfl
  refine ⟨decode_encode .encBlock, fun bs b i j => ?_, fun c b r i j => ?_, fun _ _ _ => rfl, fun s => ?_⟩
  · exact ⟨Block.at_load bs i j, getD_store b i j, b.length_store⟩
  · exact ⟨at_addRoundKey_of_round c r b i j, addRoundKey_addRoundKey c r b, at_subBytes_getD c b i j,
      at_invSubBytes_getD c b i j, at_shiftRows_rows b i j, at_shiftRows_columns b i j,
      at_mapVectors_rows mixVec b i j, at_mapVectors_columns mixVec b i j⟩
  · exact ⟨block_noKey hi s, block_badLength hi s, block_outOfRange hi s, block_overlapping hi s,
      block_busError hi s, fun hkey hlen hsrc hdst hapart hcalm =>
        block_success hi s hkey hlen hsrc hdst hapart _ hcalm rfl⟩

/-- Settles O34: as for encryption, with the inverse steps. -/
theorem decBlockEffect : Obligations.DecBlockEffect := by
  unfold Obligations.DecBlockEffect
  have hi : IsBlockCommand .decBlock := .inr rfl
  refine ⟨decode_encode .decBlock, fun c b i j => ?_, fun o b => ?_, fun _ _ _ => rfl, fun s => ?_⟩
  · exact ⟨at_invSubBytes_getD c b i j, at_invShiftRows_rows b i j, at_invShiftRows_columns b i j,
      at_mapVectors_rows invMixVec b i j, at_mapVectors_columns invMixVec b i j⟩
  · exact ⟨invShiftRows_shiftRows o b, shiftRows_invShiftRows o b⟩
  · exact ⟨block_noKey hi s, block_badLength hi s, block_outOfRange hi s, block_overlapping hi s,
      block_busError hi s, fun hkey hlen hsrc hdst hapart hcalm =>
        block_success hi s hkey hlen hsrc hdst hapart _ hcalm rfl⟩

end Sys2Proof.Machine
end

section
/-!
The padded text and the chains, block by block (spec/42_chain_mode.md rules R350 to R353, R356). The block before
the first is the IV; a chain that has done one block goes on with the rest of the text and that block's ciphertext in
the place of the IV, so that every law of the chains is an induction on the number of blocks.
-/

namespace Sys2Proof.Machine

/-! ### The padded text (R350) -/

theorem padLen_pos (n : Nat) : 0 < padLen n := by
  rw [padLen]
  omega

theorem padLen_le (n : Nat) : padLen n ≤ 16 := Nat.sub_le _ _

theorem toNat_padByte (n : Nat) : (BitVec.ofNat 8 (padLen n)).toNat = padLen n := by
  have hle := padLen_le n
  rw [BitVec.toNat_ofNat, Nat.mod_eq_of_lt (by omega)]

theorem getD_pad_text (p : List Byte) (k : Nat) (hk : k < p.length) : (pad p).getD k 0 = p.getD k 0 :=
  List.getD_append _ _ _ _ hk

theorem getD_pad_padding (p : List Byte) (k : Nat) (hlo : p.length ≤ k) (hhi : k < p.length + padLen p.length) :
    ((pad p).getD k 0).toNat = padLen p.length := by
  rw [pad, List.getD_append_right _ _ _ _ hlo, List.getD_replicate _ (by omega), toNat_padByte]

theorem take_pad (p : List Byte) : (pad p).take p.length = p := List.take_left

/-! ### The unpadded length (R353) -/

theorem getLastD_eq_getD (out : List Byte) : out.getLastD 0 = out.getD (out.length - 1) 0 := by
  rw [List.getLastD_eq_getLast?, List.getLast?_eq_getElem?, List.getD_eq_getElem?_getD]

theorem padByteValid_iff (out : List Byte) :
    padByteValid out = true ↔
      1 ≤ (out.getD (out.length - 1) 0).toNat ∧ (out.getD (out.length - 1) 0).toNat ≤ out.length := by
  simp only [padByteValid, Bool.and_eq_true, decide_eq_true_eq, getLastD_eq_getD]

section
variable (pol : UnpadPolicy) (free : Nat) (out : List Byte)

theorem unpadLen_of_empty (hempty : out.length = 0) : unpadLen pol free out = 0 := if_pos hempty

theorem unpadLen_of_valid (hlen : 0 < out.length) (hvalid : padByteValid out = true) :
    unpadLen pol free out = out.length - (out.getD (out.length - 1) 0).toNat := by
  unfold unpadLen
  rw [if_neg hlen.ne', if_pos hvalid, getLastD_eq_getD]

theorem unpadLen_zero_of_invalid (hinvalid : ¬padByteValid out = true) : unpadLen .zero free out = 0 := by
  unfold unpadLen
  rw [if_neg hinvalid, ite_self]

theorem unpadLen_le : unpadLen pol free out ≤ out.length := by
  unfold unpadLen
  split
  · exact Nat.zero_le _
  · split
    · exact Nat.sub_le _ _
    · cases pol with
      | zero => exact Nat.zero_le _
      | draw => exact Nat.le_of_lt_succ (Nat.mod_lt _ (Nat.succ_pos _))

/-- The last byte of a padded text is its pad length, whatever the policy. -/
theorem unpadLen_pad (p : List Byte) : unpadLen pol free (pad p) = p.length := by
  have hpos := padLen_pos p.length
  have hlen := length_pad p
  have hlast : ((pad p).getD ((pad p).length - 1) 0).toNat = padLen p.length :=
    getD_pad_padding p _ (by omega) (by omega)
  rw [unpadLen_of_valid pol free _ (by omega) ((padByteValid_iff _).mpr (by omega)), hlast]
  omega

end

/-! ### The block before a block (R351, R352) -/

/-- Block `k - 1` of a text, or the IV for `k = 0`. -/
def blockBefore (iv : Block) (x : List Byte) (k : Nat) : Block := if k = 0 then iv else blockOf x (k - 1)

@[simp] theorem blockBefore_zero (iv : Block) (x : List Byte) : blockBefore iv x 0 = iv := rfl

@[simp] theorem blockBefore_succ (iv : Block) (x : List Byte) (k : Nat) :
    blockBefore iv x (k + 1) = blockOf x k := rfl

theorem blockBefore_store (b : Block) (l : List Byte) (k : Nat) :
    blockBefore b l k = blockOf (b.store ++ l) k := by
  cases k <;> simp

theorem blockBefore_drop (x : List Byte) (k : Nat) :
    blockBefore (blockOf x 0) (x.drop 16) k = blockOf x k := by
  cases k with
  | zero => rfl
  | succ k => exact blockOf_drop x k

/-! ### Each block of a chain (R351, R352) -/

section
variable (c : Cipher) (o : Orient)

theorem blockOf_cbcEncBlocks (n : Nat) (iv : Block) (q : List Byte) (k : Nat) (hk : k < n) :
    blockOf (cbcEncBlocks c o n iv q) k =
      encrypt c o (Block.xor (blockOf q k) (blockBefore iv (cbcEncBlocks c o n iv q) k)) := by
  induction n generalizing iv q k with
  | zero => omega
  | succ n ih =>
    rw [cbcEncBlocks]
    cases k with
    | zero => exact blockOf_store_zero _ _
    | succ k => rw [blockOf_store_succ, ih _ _ k (by omega), blockOf_drop, blockBefore_succ, blockBefore_store]

theorem blockOf_cbcDecBlocks (n : Nat) (iv : Block) (x : List Byte) (k : Nat) (hk : k < n) :
    blockOf (cbcDecBlocks c o n iv x) k = Block.xor (decrypt c o (blockOf x k)) (blockBefore iv x k) := by
  induction n generalizing iv x k with
  | zero => omega
  | succ n ih =>
    rw [cbcDecBlocks]
    cases k with
    | zero => exact blockOf_store_zero _ _
    | succ k =>
      rw [blockOf_store_succ, ih _ _ k (by omega), blockOf_drop, blockBefore_succ]
      exact congrArg _ (blockBefore_drop x k)

theorem blockOf_cbcEncrypt (iv : Block) (p : List Byte) (k : Nat) (hk : 16 * k < (pad p).length) :
    blockOf (cbcEncrypt c o iv p) k =
      encrypt c o (Block.xor (blockOf (pad p) k) (blockBefore iv (cbcEncrypt c o iv p) k)) := by
  have hwhole := length_pad_mod p
  exact blockOf_cbcEncBlocks c o _ iv (pad p) k (by omega)

theorem blockOf_cbcDecrypt (iv : Block) (x : List Byte) (hwhole : x.length % 16 = 0) (k : Nat)
    (hk : 16 * k < x.length) :
    blockOf (cbcDecrypt c o iv x) k = Block.xor (decrypt c o (blockOf x k)) (blockBefore iv x k) :=
  blockOf_cbcDecBlocks c o _ iv x k (by omega)

end

/-! ### Decryption undoes encryption (R356) -/

/-- The chain's exclusive-or, applied again, cancels. -/
theorem Block.xor_xor_cancel_right (a b : Block) : Block.xor (Block.xor a b) b = a :=
  Block.ext_at _ _ fun i j => by
    rw [Block.at_xor, Block.at_xor, BitVec.xor_assoc, BitVec.xor_self, BitVec.xor_zero]

/-- One step of the decrypting chain on a text that starts with a stored block. -/
theorem cbcDecBlocks_store (c : Cipher) (o : Orient) (n : Nat) (iv b : Block) (l : List Byte) :
    cbcDecBlocks c o (n + 1) iv (b.store ++ l) =
      (Block.xor (decrypt c o b) iv).store ++ cbcDecBlocks c o n b l := by
  have htake : (b.store ++ l).take 16 = b.store := List.take_left' b.length_store
  have hdrop : (b.store ++ l).drop 16 = l := List.drop_left' b.length_store
  rw [cbcDecBlocks, htake, hdrop, Block.load_store]

section
variable {c : Cipher} (htables : TablesInverse c) (o : Orient)
include htables

theorem cbcDecBlocks_cbcEncBlocks (n : Nat) (iv : Block) (q : List Byte) (hq : q.length = 16 * n) :
    cbcDecBlocks c o n iv (cbcEncBlocks c o n iv q) = q := by
  induction n generalizing iv q with
  | zero => exact (List.eq_nil_of_length_eq_zero hq).symm
  | succ n ih =>
    have hfirst : (q.take 16).length = 16 := by
      rw [List.length_take]
      omega
    have hrest : (q.drop 16).length = 16 * n := by
      rw [List.length_drop]
      omega
    rw [cbcEncBlocks, cbcDecBlocks_store, decrypt_encrypt htables, Block.xor_xor_cancel_right,
      Block.store_load _ hfirst, ih _ _ hrest, List.take_append_drop]

theorem cbcDecrypt_cbcEncrypt (iv : Block) (p : List Byte) :
    cbcDecrypt c o iv (cbcEncrypt c o iv p) = pad p := by
  have hwhole := length_pad_mod p
  rw [cbcDecrypt, length_cbcEncrypt, ← length_pad]
  exact cbcDecBlocks_cbcEncBlocks htables o _ iv (pad p) (by omega)

end

end Sys2Proof.Machine
end

section
/-!
CBC_ENC and CBC_DEC (spec/42_chain_mode.md rules R354 to R356): once CBC_DEC has accepted its length, the two commands
differ in the number of bytes they write and in their results only, so the other checks and the ends are said once for
both.
-/

namespace Sys2Proof.Machine

/-! ### The results of a memory command once stored (R108, R163) -/

theorem outLen_storeResult (r : MemResult) (s : State) (hlen : r.outLen < 2 ^ 32) :
    (storeResult r s).outLen.toNat = r.outLen := by
  rw [storeResult_of_fits r s hlen]
  exact (BitVec.toNat_ofNat _ _).trans (Nat.mod_eq_of_lt hlen)

theorem freeIx_storeResult (r : MemResult) (s : State) (hlen : r.outLen < 2 ^ 32) :
    (storeResult r s).freeIx = s.freeIx + r.draws := by
  rw [storeResult_of_fits r s hlen]

theorem readBytes_storeResult (r : MemResult) (s : State) (m : Nat) (hm : r.bytes.length = m) :
    (storeResult r s).mem.readBytes s.dstAddr.toNat m = r.bytes := by
  rw [storeResult_mem, Memory.readBytes_writeBytes _ _ _ _ hm]

theorem read_storeResult_outside (r : MemResult) (s : State) (m a : Nat) (hm : r.bytes.length = m)
    (ha : ¬(s.dstAddr.toNat ≤ a ∧ a < s.dstAddr.toNat + m)) : (storeResult r s).mem.read a = s.mem.read a := by
  subst hm
  rw [storeResult_mem, Memory.read_writeBytes_outside _ _ _ _ ha]

theorem ended_storeResult_frame (r : MemResult) (s : State) :
    ended 0 (storeResult r s) =
      ended 0 { s with
        mem := (storeResult r s).mem, outLen := (storeResult r s).outLen, freeIx := (storeResult r s).freeIx } := by
  conv_lhs => rw [storeResult_frame]
  rw [storeResult_mem]

/-- The first bytes of a buffer are those of the shorter buffer. -/
theorem Memory.take_readBytes (m : Memory) (a n k : Nat) (hn : n ≤ k) :
    (m.readBytes a k).take n = m.readBytes a n := by
  rw [Memory.readBytes, ← List.map_take, List.take_range, Nat.min_eq_left hn, Memory.readBytes]

/-! ### The checks and the ends -/

/-- A chain command whose length is accepted, in a state where its write buffer has `m` bytes. -/
inductive ChainCommand : Instr → State → Nat → Prop
  | enc (s : State) : ChainCommand .cbcEnc s (lenOf s + padLen (lenOf s))
  | dec (s : State) (hwhole : lenOf s % 16 = 0) : ChainCommand .cbcDec s (lenOf s)

section
variable {i : Instr} {s : State} {m : Nat} (hi : ChainCommand i s m)
include hi

theorem ChainCommand.accessesMemory : accessesMemory i = true := by
  cases hi <;> rfl

theorem ChainCommand.inPlaceAllowed : inPlaceAllowed i = true := by
  cases hi <;> rfl

theorem ChainCommand.readBuffers : readBuffers i s = [⟨s.srcAddr.toNat, s.len.toNat⟩] := by
  cases hi <;> rfl

theorem ChainCommand.writeBuffers : writeBuffers i s = [⟨s.dstAddr.toNat, m⟩] := by
  cases hi <;> rfl

theorem ChainCommand.noKey (hkey : s.keyValid = false) : exec i s = .next (ended 3 s) :=
  exec_of_noKey i s hkey (by cases hi <;> simp)

/-- The bytes that a chain command computes fill its write buffer. -/
theorem ChainCommand.length_bytes : (memResult i s).bytes.length = m := by
  cases hi with
  | enc => simp [memResult, cbcEncResult, sourceText, length_cbcEncrypt]
  | dec _ hwhole =>
    rw [memResult, cbcDecResult, length_cbcDecrypt _ _ _ _ (by simpa [sourceText] using hwhole)]
    simp [sourceText]

theorem ChainCommand.rangeError_iff :
    rangeError i s = true ↔
      ¬(Fits s.build.memSize s.srcAddr.toNat s.len.toNat ∧ Fits s.build.memSize s.dstAddr.toNat m) :=
  rangeError_iff_of_buffers hi.readBuffers hi.writeBuffers

theorem ChainCommand.overlapError_iff :
    overlapError i s = true ↔
      s.srcAddr ≠ s.dstAddr ∧ ¬Apart s.srcAddr.toNat s.len.toNat s.dstAddr.toNat m :=
  overlapError_iff_of_inPlace hi.readBuffers hi.writeBuffers hi.inPlaceAllowed

variable (hkey : s.keyValid = true)
include hkey

/-- With a key and an accepted length the two buffer checks are left. -/
theorem ChainCommand.firstError_eq :
    firstError i s =
      if rangeError i s then some .range else if overlapError i s then some .overlap else none := by
  have hbuffers : ∀ r p : Bool, Option.map (·.1) ([(ErrCode.range, r), (ErrCode.overlap, p)].find? (·.2)) =
      if r then some .range else if p then some .overlap else none := by decide
  cases hi with
  | enc => simpa [firstError, checks, hkey] using hbuffers _ _
  | dec _ hwhole => simpa [firstError, checks, hkey, hwhole] using hbuffers _ _

theorem ChainCommand.outOfRange
    (hrange : ¬(Fits s.build.memSize s.srcAddr.toNat s.len.toNat ∧ Fits s.build.memSize s.dstAddr.toNat m)) :
    exec i s = .next (ended 10 s) := by
  refine exec_of_firstError i s .range ?_
  rw [hi.firstError_eq hkey, if_pos (hi.rangeError_iff.mpr hrange)]

variable (hsrc : Fits s.build.memSize s.srcAddr.toNat s.len.toNat)
  (hdst : Fits s.build.memSize s.dstAddr.toNat m)
include hsrc hdst

theorem ChainCommand.firstError_of_inRange :
    firstError i s = if overlapError i s then some .overlap else none := by
  rw [hi.firstError_eq hkey, if_neg (hi.rangeError_iff.not.mpr (not_not_intro ⟨hsrc, hdst⟩))]

theorem ChainCommand.overlapping (hne : s.srcAddr ≠ s.dstAddr)
    (hoverlap : ¬Apart s.srcAddr.toNat s.len.toNat s.dstAddr.toNat m) : exec i s = .next (ended 11 s) := by
  refine exec_of_firstError i s .overlap ?_
  rw [hi.firstError_of_inRange hkey hsrc hdst, if_pos (hi.overlapError_iff.mpr ⟨hne, hoverlap⟩)]

variable (hapart : s.srcAddr = s.dstAddr ∨ Apart s.srcAddr.toNat s.len.toNat s.dstAddr.toNat m)
include hapart

theorem ChainCommand.firstError_eq_none : firstError i s = none := by
  rw [hi.firstError_of_inRange hkey hsrc hdst, if_neg]
  rw [hi.overlapError_iff, not_and_not_right]
  exact hapart.resolve_left

theorem ChainCommand.busError (hbus : s.hazard.busError = true) (hread : s.hazard.readHit = false)
    (hm : 0 < m) : EndsInBusError i s s.dstAddr.toNat m := by
  have hchecked := hi.firstError_eq_none hkey hsrc hdst hapart
  refine endsInBusError_of_checked i s _ m hi.accessesMemory hchecked hi.writeBuffers
    ((busErrorReaches_iff i s).mpr ⟨hbus, ⟨s.dstAddr.toNat, m⟩, ?_, hm⟩) hread
  simp [hi.writeBuffers]

theorem ChainCommand.success (hcalm : Undisturbed s) :
    exec i s = .next (ended 0 (storeResult (memResult i s) s)) :=
  exec_of_undisturbed i s hi.accessesMemory (hi.firstError_eq_none hkey hsrc hdst hapart) hcalm

end

/-! ### CBC_ENC (R354) -/

theorem at_ivBlock (s : State) (i j : Fin 4) : (ivBlock s).at i j = ivByte s (4 * i.val + j.val) := by
  simp [Block.at, ivBlock]

/-- Settles O35: the pad bytes, each block of the chain, and the command's five ends. -/
theorem cbcEncEffect : Obligations.CbcEncEffect := by
  unfold Obligations.CbcEncEffect
  refine ⟨decode_encode .cbcEnc, fun p => ⟨length_pad p, getD_pad_text p, getD_pad_padding p⟩, Block.at_xor,
    at_ivBlock, fun c o iv p => ⟨?_, blockOf_cbcEncrypt c o iv p⟩, ?_⟩
  · rw [length_cbcEncrypt, length_pad]
  · rintro s n m rfl rfl
    have hi : ChainCommand .cbcEnc s (s.len.toNat + padLen s.len.toNat) := .enc s
    have hpos : 0 < s.len.toNat + padLen s.len.toNat := Nat.add_pos_right _ (padLen_pos _)
    refine ⟨hi.noKey, hi.outOfRange, hi.overlapping, fun hkey hsrc hdst hapart hbus hread =>
      hi.busError hkey hsrc hdst hapart hbus hread hpos, fun hkey hsrc hdst hapart hcalm =>
      ⟨_, hi.success hkey hsrc hdst hapart hcalm, ended_storeResult_frame _ s, fun hlen => ?_,
        readBytes_storeResult _ s _ hi.length_bytes, fun a => read_storeResult_outside _ s _ a hi.length_bytes⟩⟩
    exact ⟨outLen_storeResult _ s hlen, freeIx_storeResult _ s hlen⟩

/-! ### CBC_DEC (R355) -/

theorem cbcDec_badLength (s : State) (hkey : s.keyValid = true) (hlen : s.len.toNat % 16 ≠ 0) :
    exec .cbcDec s = .next (ended 5 s) := by
  refine exec_of_firstError .cbcDec s .ctLen ?_
  simp [firstError, checks, lenOf, hkey, hlen]

/-- The length that CBC_DEC reports is the unpadded length of the bytes that it writes, which `LEN` bounds. -/
theorem outLen_cbcDec (s : State) (hi : ChainCommand .cbcDec s s.len.toNat) :
    (storeResult (memResult .cbcDec s) s).outLen.toNat =
      unpadLen s.build.unpadPolicy (Config.freeNat s.freeIx) (memResult .cbcDec s).bytes := by
  refine outLen_storeResult _ s (lt_of_le_of_lt (unpadLen_le _ _ _) ?_)
  exact lt_of_eq_of_lt hi.length_bytes s.len.isLt

/-- Settles O36: each block of the chain, the command's five errors in order, and its results by the last byte. -/
theorem cbcDecEffect : Obligations.CbcDecEffect := by
  unfold Obligations.CbcDecEffect
  refine ⟨decode_encode .cbcDec, fun c o iv x hwhole =>
    ⟨length_cbcDecrypt c o iv x hwhole, blockOf_cbcDecrypt c o iv x hwhole⟩, ?_⟩
  rintro s m rfl
  have hchain (hwhole : s.len.toNat % 16 = 0) : ChainCommand .cbcDec s s.len.toNat := .dec s hwhole
  refine ⟨fun hkey => exec_of_noKey .cbcDec s hkey (by simp), cbcDec_badLength s,
    fun hkey hwhole => (hchain hwhole).outOfRange hkey, fun hkey hwhole => (hchain hwhole).overlapping hkey,
    fun hkey hwhole => (hchain hwhole).busError hkey, fun hkey hwhole hsrc hdst hapart hcalm => ?_⟩
  have hi := hchain hwhole
  have houtLen := outLen_cbcDec s hi
  have hbytes := hi.length_bytes
  refine ⟨_, (memResult .cbcDec s).bytes, hi.success hkey hsrc hdst hapart hcalm, ended_storeResult_frame _ s, rfl,
    readBytes_storeResult _ s _ hbytes, fun a => read_storeResult_outside _ s _ a hbytes, ?_⟩
  refine ⟨fun hm => BitVec.eq_of_toNat_eq ?_, fun hm hlo hhi => ?_, fun hm hlast => ⟨fun hzero => ?_, ?_⟩⟩
  · exact houtLen.trans (unpadLen_of_empty _ _ _ (hbytes.trans hm))
  · have hvalid := (padByteValid_iff (memResult .cbcDec s).bytes).mpr (by rw [hbytes]; exact ⟨hlo, hhi⟩)
    have hunpad := unpadLen_of_valid s.build.unpadPolicy (Config.freeNat s.freeIx) _ (by rwa [hbytes]) hvalid
    rw [hbytes] at hunpad
    exact houtLen.trans hunpad
  · have hinvalid : ¬padByteValid (memResult .cbcDec s).bytes = true := by rwa [padByteValid_iff, hbytes]
    rw [hzero, unpadLen_zero_of_invalid _ _ hinvalid] at houtLen
    exact BitVec.eq_of_toNat_eq houtLen
  · exact houtLen.trans_le ((unpadLen_le _ _ _).trans_eq hbytes)

/-! ### The round trip (R356) -/

theorem ErrCode.eq_ok_of_code_eq_zero (e : ErrCode) (h : e.code = 0) : e = .ok := by
  cases e
  case ok => rfl
  all_goals exact absurd h (by decide)

/-- A check that fails has an error code. -/
theorem firstError_ne_ok (i : Instr) (s : State) : firstError i s ≠ some .ok := fun h => by
  have hmem := firstError_mem i s .ok h
  cases i <;> simp [checks] at hmem

/-- A memory command that has ended with code 0 has passed its checks. -/
theorem firstError_eq_none_of_err_eq_zero (i : Instr) (s t : State) (hmem : accessesMemory i = true)
    (h : exec i s = .next t) (herr : t.err = 0) : firstError i s = none := by
  rw [exec_of_accessesMemory i s hmem] at h
  obtain ⟨e, he, rfl⟩ | ⟨hchecked, -⟩ := memoryCommand_cases i _ s t h
  · rw [complete_err] at herr
    exact absurd (e.eq_ok_of_code_eq_zero herr ▸ he) (firstError_ne_ok i s)
  · exact hchecked

/-- The state that an undisturbed CBC_ENC leaves where it succeeds and its length fits `OUT_LEN`. -/
theorem cbcEnc_succeeded (s t : State) (hcalm : Undisturbed s) (h : exec .cbcEnc s = .next t) (herr : t.err = 0)
    (hlen : s.len.toNat + 16 < 2 ^ 32) :
    t.outLen.toNat = s.len.toNat + padLen s.len.toNat ∧
      t.mem.readBytes s.dstAddr.toNat t.outLen.toNat =
        cbcEncrypt s.cipher s.build.orient (ivBlock s) (s.mem.readBytes s.srcAddr.toNat s.len.toNat) := by
  have hchecked := firstError_eq_none_of_err_eq_zero .cbcEnc s t rfl h herr
  rw [exec_of_undisturbed .cbcEnc s rfl hchecked hcalm] at h
  obtain rfl := Host.Outcome.next.inj h
  have hle := padLen_le s.len.toNat
  have houtLen : (storeResult (memResult .cbcEnc s) s).outLen.toNat = s.len.toNat + padLen s.len.toNat :=
    outLen_storeResult _ s (show s.len.toNat + padLen s.len.toNat < 2 ^ 32 by omega)
  refine ⟨houtLen, readBytes_storeResult _ s _ ?_⟩
  exact (ChainCommand.enc s).length_bytes.trans houtLen.symm

theorem ivBlock_congr (s u : State) (hiv : u.iv = s.iv) : ivBlock u = ivBlock s := by
  simp only [ivBlock, ivByte, hiv]

/-- CBC_DEC on bytes that decrypt to a padded text returns the text and its length. -/
theorem cbcDec_of_pad (u : State) (p : List Byte)
    (hlen : u.len.toNat = p.length + padLen p.length)
    (htext : cbcDecrypt u.cipher u.build.orient (ivBlock u) (u.mem.readBytes u.srcAddr.toNat u.len.toNat) = pad p) :
    (storeResult (memResult .cbcDec u) u).outLen.toNat = p.length ∧
      (storeResult (memResult .cbcDec u) u).mem.readBytes u.dstAddr.toNat p.length = p := by
  have hi : ChainCommand .cbcDec u u.len.toNat := .dec u (by
    rw [lenOf, hlen, ← length_pad, length_pad_mod])
  have hbytes : (memResult .cbcDec u).bytes = pad p := htext
  refine ⟨by rw [outLen_cbcDec u hi, hbytes, unpadLen_pad], ?_⟩
  rw [← Memory.take_readBytes _ _ _ u.len.toNat (by omega), readBytes_storeResult _ u _ hi.length_bytes, hbytes,
    take_pad]

/-- Settles O47: the chains undo each other block by block, the pad says its own length, and CBC_DEC finds the bytes,
the length and the tables that CBC_ENC left. -/
theorem cbcRoundTrip : Obligations.CbcRoundTrip := by
  unfold Obligations.CbcRoundTrip
  refine ⟨fun bld key iv p hbuild _ => cbcDecrypt_cbcEncrypt (tablesInverse_construct bld key hbuild) _ iv p,
    unpadLen_pad, ?_⟩
  intro s t u hbuild hcipher hcalm hexec herr hroom hub huc hkey hiv hucalm hulen hubytes hsrc hdst hapart
  obtain ⟨key, -, htables⟩ := hcipher
  obtain ⟨houtLen, hwritten⟩ := cbcEnc_succeeded s t hcalm hexec herr hroom
  have hp : (s.mem.readBytes s.srcAddr.toNat s.len.toNat).length = s.len.toNat := Memory.length_readBytes _ _ _
  have htext : cbcDecrypt u.cipher u.build.orient (ivBlock u) (u.mem.readBytes u.srcAddr.toNat u.len.toNat) =
      pad (s.mem.readBytes s.srcAddr.toNat s.len.toNat) := by
    rw [hubytes, hwritten, ivBlock_congr s u hiv, hub, huc, htables]
    exact cbcDecrypt_cbcEncrypt (tablesInverse_construct _ key hbuild) _ _ _
  have hlen : u.len.toNat = s.len.toNat + padLen s.len.toNat := by rw [hulen, houtLen]
  have hi : ChainCommand .cbcDec u u.len.toNat := .dec u (by
    rw [lenOf, hlen, ← hp, ← length_pad, length_pad_mod])
  obtain ⟨hlast, hplain⟩ := cbcDec_of_pad u _ (by rw [hlen, hp]) htext
  rw [hp] at hlast hplain
  refine ⟨_, hi.success hkey hsrc hdst hapart hucalm, rfl, BitVec.eq_of_toNat_eq hlast, ?_⟩
  exact (congrArg _ hlast).trans hplain

end Sys2Proof.Machine
end

section
/-!
The bit-plane codec's functions (spec/43_bitplane_codec.md rules R400 to R405, R407, R408, R410, R412, R413). The
carrier positions are pairwise distinct, so an embedded image is the source image with one bit set per carrier position;
the extraction loop is an inductive relation with one constructor for each of its ways to go on.
-/

namespace Sys2Proof.Machine

/-! ### The bits of a channel value (R403) -/

theorem getLsbD_setBit (v : Byte) (p q : Nat) (t : Bool) (hp : p < 8) :
    (setBit v p t).getLsbD q = if q = p then t else v.getLsbD q := by
  obtain hlt | rfl | hgt := Nat.lt_trichotomy q p
  · simp [setBit, hlt, hlt.ne, hlt.trans hp]
  · simp [setBit, hp]
  · by_cases hq : q < 8
    · simp [setBit, hq, hgt.ne', hgt.not_gt, show q - p ≠ 0 by omega]
    · simp [BitVec.getLsbD_of_ge _ q (Nat.le_of_not_lt hq), hgt.ne']

theorem setBit_setBit (v : Byte) (p : Nat) (t : Bool) (hp : p < 8) :
    setBit (setBit v p t) p t = setBit v p t :=
  BitVec.eq_of_getLsbD_eq fun q _ => by
    rw [getLsbD_setBit _ _ _ _ hp, getLsbD_setBit _ _ _ _ hp]
    exact ite_eq_right_iff.mpr fun h => (if_pos h).symm

/-! ### The carrier positions (R400, R405) -/

theorem mem_carrierPositions (n g k : Nat) : (g, k) ∈ carrierPositions n ↔ g < n ∧ k < 9 := by
  simp [carrierPositions]

section
variable {c : Nat} (hc : 3 ≤ c) (g k : Nat)
include hc

/-- The pixel of a carrier position. -/
theorem cpos_div : cpos c g k / c = 3 * g + k / 3 := by
  rw [cpos, Nat.mul_comm, Nat.mul_add_div (by omega), Nat.div_eq_of_lt (show k % 3 < c by omega), Nat.add_zero]

/-- The channel of a carrier position. -/
theorem cpos_mod : cpos c g k % c = k % 3 := by
  rw [cpos, Nat.mul_comm, Nat.mul_add_mod, Nat.mod_eq_of_lt (show k % 3 < c by omega)]

theorem cpos_injective {g' k' : Nat} (hk : k < 9) (hk' : k' < 9) (h : cpos c g k = cpos c g' k') :
    g = g' ∧ k = k' := by
  have hpixel : 3 * g + k / 3 = 3 * g' + k' / 3 := by rw [← cpos_div hc, ← cpos_div hc, h]
  have hchannel : k % 3 = k' % 3 := by rw [← cpos_mod hc g, ← cpos_mod hc g', h]
  omega

theorem cpos_lt {n px : Nat} (hg : g < n) (hk : k < 9) (hfit : 3 * n ≤ px) : cpos c g k < px * c := by
  rw [← Nat.div_lt_iff_lt_mul (by omega), cpos_div hc]
  omega

end

/-! ### The embedded image, byte by byte (R405) -/

/-- A byte after a sequence of writes: the writes at its address all write `b`, and it was `b` before or one of them
takes place. -/
theorem getD_foldl_set {ι : Type} (addr : ι → Nat) (val : ι → Byte) (a : Nat) (b : Byte) (l : List ι)
    (out : List Byte) (hval : ∀ x ∈ l, addr x = a → val x = b)
    (hb : out.getD a 0 = b ∨ a < out.length ∧ ∃ x ∈ l, addr x = a) :
    (l.foldl (fun out x => out.set (addr x) (val x)) out).getD a 0 = b := by
  induction l generalizing out with
  | nil => simpa using hb
  | cons y l ih =>
    rw [List.foldl_cons]
    refine ih _ (fun x hx => hval x (List.mem_cons_of_mem y hx)) ?_
    by_cases hy : addr y = a
    · have hvy := hval y List.mem_cons_self hy
      by_cases ha : a < out.length
      · exact .inl (by simp [List.getD, hy, ha, hvy])
      · have hout := hb.resolve_right fun h => ha h.1
        exact .inl (by rw [List.set_eq_of_length_le (by omega), hout])
    · refine hb.imp (fun h => ?_) fun ⟨ha, x, hx, hxa⟩ => ⟨by rwa [List.length_set], x, ?_, hxa⟩
      · rw [List.getD_eq_getElem?_getD, List.getElem?_set_ne hy, ← List.getD_eq_getElem?_getD, h]
      · exact (List.mem_cons.mp hx).resolve_left fun h => hy (h ▸ hxa)

section
variable {img pay : List Byte} {px c : Nat} (p : Nat)

theorem getD_embedImage_of_no_carrier (a : Nat)
    (ha : ∀ g k, g < pay.length → k < 9 → a ≠ cpos c g k) :
    (embedImage img c pay p).getD a 0 = img.getD a 0 := by
  refine getD_foldl_set _ _ a _ _ img (fun ⟨g, k⟩ hx hxa => ?_) (.inl rfl)
  obtain ⟨hg, hk⟩ := (mem_carrierPositions _ g k).mp hx
  exact absurd hxa.symm (ha g k hg hk)

variable (hc : 3 ≤ c) (hlen : img.length = px * c) (hfit : 3 * pay.length ≤ px)
include hc hlen hfit

theorem getD_embedImage_cpos (g k : Nat) (hg : g < pay.length) (hk : k < 9) :
    (embedImage img c pay p).getD (cpos c g k) 0 =
      setBit (img.getD (cpos c g k) 0) p (carriedBit pay g k) := by
  refine getD_foldl_set _ _ (cpos c g k) _ _ img (fun ⟨g', k'⟩ hx hxa => ?_)
    (.inr ⟨hlen ▸ cpos_lt hc g k hg hk hfit, (g, k), (mem_carrierPositions _ g k).mpr ⟨hg, hk⟩, rfl⟩)
  obtain ⟨-, hk'⟩ := (mem_carrierPositions _ g' k').mp hx
  obtain ⟨rfl, rfl⟩ := cpos_injective hc g' k' hk' hk hxa
  rfl

variable (hp : p < 8)
include hp

/-- The bits that EXTRACT reads from an embedded image are the carried bits. -/
theorem readCarrier_embedImage (g k : Nat) (hg : g < pay.length) (hk : k < 9) :
    readCarrier (embedImage img c pay p) c p g k = carriedBit pay g k := by
  rw [readCarrier, getBit_eq_getLsbD, getD_embedImage_cpos p hc hlen hfit g k hg hk, getLsbD_setBit _ _ _ _ hp,
    if_pos rfl]

theorem readGroup_embedImage (g : Nat) (hg : g < pay.length) :
    readGroup (embedImage img c pay p) c p g = pay.getD g 0 :=
  BitVec.eq_of_getLsbD_eq fun i hi => by
    obtain ⟨k, hk, rfl⟩ : ∃ k, k < 8 ∧ i = 7 - k := ⟨7 - i, by omega, by omega⟩
    rw [readGroup, getLsbD_assembleByte _ k hk, readCarrier_embedImage p hc hlen hfit hp g k hg (by omega),
      carriedBit, if_pos hk, dataBit]

/-- Only bit `p` of the carrier positions can differ from the source image (R407). -/
theorem getLsbD_embedImage_of_kept (a q : Nat)
    (hkept : q ≠ p ∨ ∀ g k, g < pay.length → k < 9 → a ≠ cpos c g k) :
    ((embedImage img c pay p).getD a 0).getLsbD q = (img.getD a 0).getLsbD q := by
  by_cases hcarrier : ∀ g k, g < pay.length → k < 9 → a ≠ cpos c g k
  · rw [getD_embedImage_of_no_carrier p a hcarrier]
  · have hq := hkept.resolve_right hcarrier
    push Not at hcarrier
    obtain ⟨g, k, hg, hk, rfl⟩ := hcarrier
    rw [getD_embedImage_cpos p hc hlen hfit g k hg hk, getLsbD_setBit _ _ _ _ hp, if_neg hq]

/-- Embedding the same payload again changes nothing (R408). -/
theorem embedImage_embedImage :
    embedImage (embedImage img c pay p) c pay p = embedImage img c pay p := by
  have hlen' : (embedImage img c pay p).length = px * c := by rw [length_embedImage, hlen]
  refine List.ext_getElem (length_embedImage _ _ _ _) fun a h1 h2 => ?_
  rw [← List.getD_eq_getElem _ 0 h1, ← List.getD_eq_getElem _ 0 h2]
  by_cases hcarrier : ∀ g k, g < pay.length → k < 9 → a ≠ cpos c g k
  · exact getD_embedImage_of_no_carrier p a hcarrier
  · push Not at hcarrier
    obtain ⟨g, k, hg, hk, rfl⟩ := hcarrier
    rw [getD_embedImage_cpos p hc hlen' hfit g k hg hk, getD_embedImage_cpos p hc hlen hfit g k hg hk,
      setBit_setBit _ _ _ hp]

end

/-- Settles O48: the carried bits are read back, and a byte without a carrier position is not written. -/
theorem embedChangesOnlyCarriedBits : Obligations.EmbedChangesOnlyCarriedBits := by
  unfold Obligations.EmbedChangesOnlyCarriedBits
  intro img pay px c p hc hlen hfit hp
  have hread (g k : Nat) (hg : g < pay.length) (hk : k < 9) :
      ((embedImage img c pay p).getD (cpos c g k) 0).getLsbD p = carriedBit pay g k := by
    rw [← readCarrier_embedImage p hc hlen hfit hp g k hg hk, readCarrier, getBit_eq_getLsbD]
  refine ⟨length_embedImage _ _ _ _, fun g k hg hk => ?_, fun g hg => hread g 8 hg (by decide),
    fun a q _ _ hkept => ?_, embedImage_embedImage p hc hlen hfit hp⟩
  · exact (hread g k hg (by omega)).trans (if_pos hk)
  · exact getLsbD_embedImage_of_kept p hc hlen hfit hp a q
      (hkept.imp_right fun h g k hg hk => h g k hg (Nat.le_of_lt_succ hk))

/-! ### The extraction loop (R410, R412) -/

section
variable (valid : Byte → Bool) (img : List Byte) (px c p : Nat)

/-- The extraction from group `g` with `room` characters to go: the four ways it ends, and the one it goes on. -/
inductive Scan : (room g : Nat) → List Byte → Prop
  | cutoff (g : Nat) : Scan 0 g []
  | exhausted (room g : Nat) (hpx : px < 3 * g + 3) : Scan (room + 1) g []
  | invalid (room g : Nat) (hpx : 3 * g + 3 ≤ px) (hbyte : valid (readGroup img c p g) = false) :
    Scan (room + 1) g []
  | last (room g : Nat) (hbyte : valid (readGroup img c p g) = true) (hmark : readCarrier img c p g 8 = false) :
    Scan (room + 1) g [readGroup img c p g]
  | more (room g : Nat) (out : List Byte) (hbyte : valid (readGroup img c p g) = true)
    (hmark : readCarrier img c p g 8 = true) (hrest : Scan room (g + 1) out) :
    Scan (room + 1) g (readGroup img c p g :: out)

theorem scan_extractFrom (room g : Nat) : Scan valid img px c p room g (extractFrom valid img px c p room g) := by
  induction room generalizing g with
  | zero => exact .cutoff g
  | succ room ih =>
    rw [extractFrom]
    split
    · next hpx => exact .exhausted room g hpx
    · next hpx =>
      split
      · next hbyte =>
        cases hmark : readCarrier img c p g 8 with
        | false => exact .last room g hbyte hmark
        | true => exact .more room g _ hbyte hmark (ih (g + 1))
      · next hbyte => exact .invalid room g (Nat.le_of_not_lt hpx) (Bool.eq_false_of_not_eq_true hbyte)

/-- Why the scan from group `g` ended after `n` characters: a clear marker, the cutoff, exhaustion, or an invalid byte;
each only where those before it do not apply (R412). -/
def StopReason (room g n : Nat) : Prop :=
  (0 < n ∧ readCarrier img c p (g + n - 1) 8 = false) ∨
    ((n = 0 ∨ readCarrier img c p (g + n - 1) 8 = true) ∧
      (n = room ∨
        (n < room ∧ (px < 3 * (g + n) + 3 ∨
          (3 * (g + n) + 3 ≤ px ∧ valid (readGroup img c p (g + n)) = false)))))

variable {valid img px c p} {room g : Nat} {out : List Byte}

theorem Scan.getD_eq (h : Scan valid img px c p room g out) (j : Nat) (hj : j < out.length) :
    out.getD j 0 = readGroup img c p (g + j) ∧ valid (out.getD j 0) = true := by
  induction h generalizing j with
  | cutoff | exhausted | invalid => exact absurd hj (Nat.not_lt_zero j)
  | last room g hbyte =>
    obtain rfl : j = 0 := Nat.lt_one_iff.mp hj
    exact ⟨rfl, hbyte⟩
  | more room g out hbyte _ _ ih =>
    cases j with
    | zero => exact ⟨rfl, hbyte⟩
    | succ j =>
      rw [List.getD_cons_succ, Nat.add_left_comm, Nat.add_comm]
      exact ih j (Nat.lt_of_succ_lt_succ hj)

theorem Scan.marker_of_not_last (h : Scan valid img px c p room g out) (j : Nat) (hj : j + 1 < out.length) :
    readCarrier img c p (g + j) 8 = true := by
  induction h generalizing j with
  | cutoff | exhausted | invalid => exact absurd hj (Nat.not_lt_zero _)
  | last => exact absurd hj (Nat.not_lt_of_le (Nat.le_add_left _ _))
  | more room g out _ hmark _ ih =>
    cases j with
    | zero => exact hmark
    | succ j =>
      rw [Nat.add_left_comm, Nat.add_comm]
      exact ih j (Nat.lt_of_succ_lt_succ hj)

/-- One character more in front, whose marker is set, keeps the reason. -/
theorem StopReason.succ {n : Nat} (h : StopReason valid img px c p room (g + 1) n)
    (hmark : readCarrier img c p g 8 = true) : StopReason valid img px c p (room + 1) g (n + 1) := by
  unfold StopReason at h ⊢
  rw [show g + (n + 1) = g + 1 + n by omega]
  refine h.imp (fun ⟨_, hclear⟩ => ⟨Nat.succ_pos n, hclear⟩) fun ⟨hset, hwhy⟩ => ⟨.inr ?_, ?_⟩
  · obtain rfl | hset := hset
    · exact hmark
    · exact hset
  · exact hwhy.imp (congrArg (· + 1)) fun ⟨hroom, hwhy⟩ => ⟨Nat.succ_lt_succ hroom, hwhy⟩

theorem Scan.stopReason (h : Scan valid img px c p room g out) :
    StopReason valid img px c p room g out.length := by
  induction h with
  | cutoff => exact .inr ⟨.inl rfl, .inl rfl⟩
  | exhausted room g hpx => exact .inr ⟨.inl rfl, .inr ⟨Nat.succ_pos _, .inl hpx⟩⟩
  | invalid room g hpx hbyte => exact .inr ⟨.inl rfl, .inr ⟨Nat.succ_pos _, .inr ⟨hpx, hbyte⟩⟩⟩
  | last room g _ hmark => exact .inl ⟨Nat.one_pos, hmark⟩
  | more room g out _ hmark _ ih => exact ih.succ hmark

end

theorem validByte_eq_true_iff (bld : Build) (b : Byte) : validByte bld b = true ↔ b ∉ bld.invalidBytes := by
  simp [validByte]

theorem validByte_eq_false_iff (bld : Build) (b : Byte) : validByte bld b = false ↔ b ∈ bld.invalidBytes := by
  simp [validByte]

/-- Settles O50: the extraction is a scan, and a scan has one reason to stop. -/
theorem extractStopsForOneReason : Obligations.ExtractStopsForOneReason := by
  unfold Obligations.ExtractStopsForOneReason
  refine ⟨fun img c p g k => ⟨getBit_eq_getLsbD _ p, getLsbD_assembleByte _ k⟩, ?_⟩
  rintro bld img px c p max out rfl
  have hscan : Scan (validByte bld) img px c p max 0 (extractImage bld img px c p max) :=
    scan_extractFrom _ _ _ _ _ _ _
  have hlen : (extractImage bld img px c p max).length ≤ min max (px / 3 - 0) := length_extractFrom _ _ _ _ _ _ _
  have hstop := hscan.stopReason
  simp only [StopReason, Nat.zero_add, validByte_eq_false_iff] at hstop
  refine ⟨by omega, by omega, fun g hg => ?_, fun g hg => ?_, hstop⟩
  · obtain ⟨hbyte, hvalid⟩ := hscan.getD_eq g hg
    rw [Nat.zero_add] at hbyte
    exact ⟨hbyte, (validByte_eq_true_iff bld _).mp hvalid⟩
  · simpa using hscan.marker_of_not_last g hg

/-! ### Extraction undoes embedding (R413) -/

section
variable {valid : Byte → Bool} {img pay : List Byte} {px c p : Nat} (hfit : 3 * pay.length ≤ px)
  (hgroup : ∀ g, g < pay.length → readGroup img c p g = pay.getD g 0)
  (hmark : ∀ g, g < pay.length → readCarrier img c p g 8 = marker pay.length g)
  (hvalid : ∀ b ∈ pay, valid b = true)
include hfit hgroup hmark hvalid

/-- The loop returns the payload that an image carries, from the group where it stands. -/
theorem extractFrom_of_carried (room g : Nat) (hg : g < pay.length) (hroom : pay.length ≤ g + room) :
    extractFrom valid img px c p room g = pay.drop g := by
  induction room generalizing g with
  | zero => omega
  | succ room ih =>
    have hbyte : readGroup img c p g = pay[g] := (hgroup g hg).trans (List.getD_eq_getElem _ _ hg)
    rw [extractFrom, if_neg (by omega), hbyte, if_pos (hvalid _ (List.getElem_mem hg)), hmark g hg,
      List.drop_eq_getElem_cons hg]
    congr 1
    by_cases hlast : g + 1 < pay.length
    · rw [marker, decide_eq_true hlast, cond_true, ih (g + 1) hlast (by omega)]
    · rw [marker, decide_eq_false hlast, cond_false, List.drop_eq_nil_of_le (Nat.le_of_not_lt hlast)]

end

theorem extractImage_embedImage (bld : Build) (img pay : List Byte) (px c p max : Nat) (hc : 3 ≤ c)
    (hlen : img.length = px * c) (hfit : 3 * pay.length ≤ px) (hp : p < 8) (hne : 0 < pay.length)
    (hmax : pay.length ≤ max) (hvalid : ∀ b ∈ pay, b ∉ bld.invalidBytes) :
    extractImage bld (embedImage img c pay p) px c p max = pay :=
  extractFrom_of_carried hfit (readGroup_embedImage p hc hlen hfit hp)
    (fun g hg => readCarrier_embedImage p hc hlen hfit hp g 8 hg (by decide))
    (fun b hb => (validByte_eq_true_iff bld b).mpr (hvalid b hb)) max 0 hne (by omega)

end Sys2Proof.Machine
end

section
/-!
EMBED and EXTRACT (spec/43_bitplane_codec.md rules R401, R406, R411, R413): the checks that come before the two buffer
checks, then the buffer checks of any such command, then each command's ends.
-/

namespace Sys2Proof.Machine

/-! ### The bit position (R401) -/

theorem clampBitPos_of_neg (w : Word) (h : w.toInt < 0) : clampBitPos w = 0 := by
  rw [clampBitPos, clampInt, if_pos h, Int.toNat_zero]

theorem clampBitPos_of_gt (w : Word) (h : 7 < w.toInt) : clampBitPos w = 7 := by
  rw [clampBitPos, clampInt, if_neg (by omega), if_pos h]
  rfl

theorem clampBitPos_of_mem (w : Word) (hlo : 0 ≤ w.toInt) (hhi : w.toInt ≤ 7) :
    (clampBitPos w : Int) = w.toInt := by
  rw [clampBitPos, clampInt, if_neg (by omega), if_neg (by omega), Int.toNat_of_nonneg hlo]

theorem clampBitPos_lt (w : Word) : clampBitPos w < 8 := by
  obtain hlo | hlo := Int.lt_or_le w.toInt 0
  · rw [clampBitPos_of_neg w hlo]
    decide
  · obtain hhi | hhi := Int.lt_or_le 7 w.toInt
    · rw [clampBitPos_of_gt w hhi]
      decide
    · have := clampBitPos_of_mem w hlo hhi
      omega

/-! ### The checks of the image commands (R522) -/

/-- When every check before the two buffer checks passes, those two are left. -/
theorem firstError_of_passed (i : Instr) (s : State) (front : List (ErrCode × Bool))
    (hchecks : checks i s = front ++ [(.range, rangeError i s), (.overlap, overlapError i s)])
    (hpass : ∀ c ∈ front, c.2 = false) :
    firstError i s =
      if rangeError i s then some .range else if overlapError i s then some .overlap else none := by
  have hfront : front.find? (·.2) = none := List.find?_eq_none.mpr fun c hc => by simp [hpass c hc]
  rw [firstError, hchecks, List.find?_append, hfront, Option.none_or]
  cases rangeError i s <;> cases overlapError i s <;> rfl

section
variable (i : Instr) (hi : i = .embed ∨ i = .extract ∨ i = .noise) (s : State)
include hi

theorem exec_of_fewChannels (hchan : s.imgC.toNat < 3) : exec i s = .next (ended 8 s) := by
  refine exec_of_firstError i s .chan ?_
  obtain rfl | rfl | rfl := hi <;> simp [firstError, checks, imgChannels, hchan]

theorem exec_of_emptyImage (hchan : 3 ≤ s.imgC.toNat) (hgeom : s.imgW = 0 ∨ s.imgH = 0) :
    exec i s = .next (ended 9 s) := by
  refine exec_of_firstError i s .geom ?_
  have hzero : (imgWidth s == 0 || imgHeight s == 0) = true := by
    rw [Bool.or_eq_true]
    exact hgeom.imp (fun h => by simp [imgWidth, h]) fun h => by simp [imgHeight, h]
  obtain rfl | rfl | rfl := hi <;> simp [firstError, checks, imgChannels, hchan.not_gt, hzero]

end

/-- An image has pixels exactly when the check of its width and height passes. -/
theorem geometry_passes_iff (s : State) : (imgWidth s == 0 || imgHeight s == 0) = false ↔ 0 < imgPixels s := by
  simp [imgPixels, Nat.pos_iff_ne_zero]

/-! ### The results stored (R108) -/

/-- The end in success of a command whose results are `n` bytes and their number, with no free value consumed. -/
theorem exec_stores_bytes (i : Instr) (s : State) (n : Nat) (hmem : accessesMemory i = true)
    (hchecked : firstError i s = none) (hcalm : Undisturbed s) (hlen : (memResult i s).bytes.length = n)
    (hout : (memResult i s).outLen = n) (hdraws : (memResult i s).draws = 0) (hn : n < 2 ^ 32) :
    ∃ t, exec i s = .next t ∧ t = ended 0 { s with mem := t.mem, outLen := BitVec.ofNat 32 n } ∧
      t.mem.readBytes s.dstAddr.toNat n = (memResult i s).bytes ∧
      ∀ a, ¬(s.dstAddr.toNat ≤ a ∧ a < s.dstAddr.toNat + n) → t.mem.read a = s.mem.read a := by
  have hexec := exec_of_undisturbed i s hmem hchecked hcalm
  refine ⟨_, hexec, ?_, readBytes_storeResult _ s n hlen, fun a => read_storeResult_outside _ s n a hlen⟩
  rw [storeResult_of_fits _ s (hout ▸ hn), hout, hdraws]
  rfl

/-- Two buffers of one size, in range and apart, are shorter than the data space. -/
theorem size_lt_of_apart {memSize a b n : Nat} (ha : Fits memSize a n) (hb : Fits memSize b n) (hapart : Apart a n b n)
    (hsize : memSize ≤ 2 ^ 32) : n < 2 ^ 32 := by
  omega

/-! ### EMBED (R406) -/

section
variable (s : State)

theorem rangeError_embed_iff :
    rangeError .embed s = true ↔
      ¬(Fits s.build.memSize s.srcAddr.toNat (imgBytes s) ∧ Fits s.build.memSize s.auxAddr.toNat (lenOf s) ∧
        Fits s.build.memSize s.dstAddr.toNat (imgBytes s)) := by
  simp [rangeError_iff, readBuffers, writeBuffers]

theorem overlapError_embed_iff :
    overlapError .embed s = true ↔
      ¬(Apart s.srcAddr.toNat (imgBytes s) s.dstAddr.toNat (imgBytes s) ∧
        Apart s.auxAddr.toNat (lenOf s) s.dstAddr.toNat (imgBytes s)) := by
  simp only [overlapError_iff, readBuffers, writeBuffers, inPlaceAllowed, List.mem_cons, List.not_mem_nil, or_false,
    exists_eq_left, exists_eq_or_imp, Bool.false_eq_true, false_and, not_false_eq_true, and_true, not_and_or]

theorem length_embedResult : (embedResult s).bytes.length = imgBytes s := by
  simp [embedResult, sourceImage]

variable (hchan : 3 ≤ imgChannels s) (hpx : 0 < imgPixels s)
include hchan hpx

theorem embed_emptyPayload (hlen : lenOf s = 0) : exec .embed s = .next (ended 6 s) := by
  refine exec_of_firstError .embed s .empty ?_
  simp [firstError, checks, hchan.not_gt, (geometry_passes_iff s).mpr hpx, hlen]

variable (hlen : 0 < lenOf s)
include hlen

theorem embed_noCapacity (hcap : imgPixels s < 3 * lenOf s) : exec .embed s = .next (ended 7 s) := by
  refine exec_of_firstError .embed s .capacity ?_
  simp [firstError, checks, hchan.not_gt, (geometry_passes_iff s).mpr hpx, hlen.ne', hcap]

variable (hcap : 3 * lenOf s ≤ imgPixels s)
include hcap

theorem firstError_embed_eq :
    firstError .embed s =
      if rangeError .embed s then some .range else if overlapError .embed s then some .overlap else none := by
  refine firstError_of_passed .embed s [_, _, _, _] rfl ?_
  simp [hchan.not_gt, (geometry_passes_iff s).mpr hpx, hlen.ne', hcap.not_gt]

theorem embed_outOfRange
    (hrange : ¬(Fits s.build.memSize s.srcAddr.toNat (imgBytes s) ∧ Fits s.build.memSize s.auxAddr.toNat (lenOf s) ∧
      Fits s.build.memSize s.dstAddr.toNat (imgBytes s))) : exec .embed s = .next (ended 10 s) := by
  refine exec_of_firstError .embed s .range ?_
  rw [firstError_embed_eq s hchan hpx hlen hcap, if_pos ((rangeError_embed_iff s).mpr hrange)]

variable (hsrc : Fits s.build.memSize s.srcAddr.toNat (imgBytes s))
  (haux : Fits s.build.memSize s.auxAddr.toNat (lenOf s))
  (hdst : Fits s.build.memSize s.dstAddr.toNat (imgBytes s))
include hsrc haux hdst

theorem firstError_embed_of_inRange :
    firstError .embed s = if overlapError .embed s then some .overlap else none := by
  rw [firstError_embed_eq s hchan hpx hlen hcap,
    if_neg ((rangeError_embed_iff s).not.mpr (not_not_intro ⟨hsrc, haux, hdst⟩))]

theorem embed_overlapping
    (hoverlap : ¬(Apart s.srcAddr.toNat (imgBytes s) s.dstAddr.toNat (imgBytes s) ∧
      Apart s.auxAddr.toNat (lenOf s) s.dstAddr.toNat (imgBytes s))) : exec .embed s = .next (ended 11 s) := by
  refine exec_of_firstError .embed s .overlap ?_
  rw [firstError_embed_of_inRange s hchan hpx hlen hcap hsrc haux hdst,
    if_pos ((overlapError_embed_iff s).mpr hoverlap)]

variable (hsrcDst : Apart s.srcAddr.toNat (imgBytes s) s.dstAddr.toNat (imgBytes s))
  (hauxDst : Apart s.auxAddr.toNat (lenOf s) s.dstAddr.toNat (imgBytes s))
include hsrcDst hauxDst

theorem firstError_embed_eq_none : firstError .embed s = none := by
  rw [firstError_embed_of_inRange s hchan hpx hlen hcap hsrc haux hdst,
    if_neg ((overlapError_embed_iff s).not.mpr (not_not_intro ⟨hsrcDst, hauxDst⟩))]

theorem embed_busError (hbus : s.hazard.busError = true) (hread : s.hazard.readHit = false) :
    EndsInBusError .embed s s.dstAddr.toNat (imgBytes s) := by
  have hchecked := firstError_embed_eq_none s hchan hpx hlen hcap hsrc haux hdst hsrcDst hauxDst
  exact endsInBusError_of_checked .embed s _ _ rfl hchecked rfl
    ((busErrorReaches_iff .embed s).mpr ⟨hbus, ⟨s.auxAddr.toNat, lenOf s⟩, by simp [readBuffers], hlen⟩) hread

end

/-- Settles O37: the clamp by its three ranges, and the command's eight ends. -/
theorem embedEffect : Obligations.EmbedEffect := by
  unfold Obligations.EmbedEffect
  refine ⟨decode_encode .embed, fun w => ⟨clampBitPos_of_neg w, clampBitPos_of_gt w, clampBitPos_of_mem w⟩, ?_⟩
  rintro s px sz p rfl rfl rfl
  have hi : Instr.embed = .embed ∨ Instr.embed = .extract ∨ Instr.embed = .noise := .inl rfl
  refine ⟨exec_of_fewChannels .embed hi s, exec_of_emptyImage .embed hi s, embed_emptyPayload s, embed_noCapacity s,
    embed_outOfRange s, embed_overlapping s, ?_, ?_⟩
  · intro hchan hpx hlen hcap hsrc haux hdst hsrcDst hauxDst _ hbus hread
    exact embed_busError s hchan hpx hlen hcap hsrc haux hdst hsrcDst hauxDst hbus hread
  · intro hchan hpx hlen hcap hsrc haux hdst hsrcDst hauxDst hsize hcalm
    have hchecked := firstError_embed_eq_none s hchan hpx hlen hcap hsrc haux hdst hsrcDst hauxDst
    have hsz : imgBytes s < 2 ^ 32 := size_lt_of_apart hsrc hdst hsrcDst hsize
    obtain ⟨t, hexec, hframe, hbytes, hother⟩ :=
      exec_stores_bytes .embed s (imgBytes s) rfl hchecked hcalm (length_embedResult s) rfl rfl hsz
    exact ⟨t, hexec, hframe, hsz, hbytes, hother⟩

/-! ### EXTRACT (R411) -/

section
variable (s : State)

theorem rangeError_extract_iff :
    rangeError .extract s = true ↔
      ¬(Fits s.build.memSize s.srcAddr.toNat (imgBytes s) ∧ Fits s.build.memSize s.dstAddr.toNat (extractRoom s)) :=
  rangeError_iff_of_buffers rfl rfl

theorem overlapError_extract_iff :
    overlapError .extract s = true ↔
      ¬Apart s.srcAddr.toNat (imgBytes s) s.dstAddr.toNat (extractRoom s) := by
  simp [overlapError_iff, readBuffers, writeBuffers, inPlaceAllowed]

/-- The recovered characters fit in the write buffer, for `MAX_EXTRACT` and for the size of the image. -/
theorem length_extracted_le : (extracted s).length ≤ extractRoom s := length_extractFrom _ _ _ _ _ _ _

variable (hchan : 3 ≤ imgChannels s) (hpx : 0 < imgPixels s)
include hchan hpx

theorem firstError_extract_eq :
    firstError .extract s =
      if rangeError .extract s then some .range else if overlapError .extract s then some .overlap else none := by
  refine firstError_of_passed .extract s [_, _] rfl ?_
  simp [hchan.not_gt, (geometry_passes_iff s).mpr hpx]

theorem extract_outOfRange
    (hrange : ¬(Fits s.build.memSize s.srcAddr.toNat (imgBytes s) ∧
      Fits s.build.memSize s.dstAddr.toNat (extractRoom s))) : exec .extract s = .next (ended 10 s) := by
  refine exec_of_firstError .extract s .range ?_
  rw [firstError_extract_eq s hchan hpx, if_pos ((rangeError_extract_iff s).mpr hrange)]

variable (hsrc : Fits s.build.memSize s.srcAddr.toNat (imgBytes s))
  (hdst : Fits s.build.memSize s.dstAddr.toNat (extractRoom s))
include hsrc hdst

theorem firstError_extract_of_inRange :
    firstError .extract s = if overlapError .extract s then some .overlap else none := by
  rw [firstError_extract_eq s hchan hpx, if_neg ((rangeError_extract_iff s).not.mpr (not_not_intro ⟨hsrc, hdst⟩))]

theorem extract_overlapping
    (hoverlap : ¬Apart s.srcAddr.toNat (imgBytes s) s.dstAddr.toNat (extractRoom s)) :
    exec .extract s = .next (ended 11 s) := by
  refine exec_of_firstError .extract s .overlap ?_
  rw [firstError_extract_of_inRange s hchan hpx hsrc hdst, if_pos ((overlapError_extract_iff s).mpr hoverlap)]

variable (hapart : Apart s.srcAddr.toNat (imgBytes s) s.dstAddr.toNat (extractRoom s))
include hapart

theorem firstError_extract_eq_none : firstError .extract s = none := by
  rw [firstError_extract_of_inRange s hchan hpx hsrc hdst,
    if_neg ((overlapError_extract_iff s).not.mpr (not_not_intro hapart))]

theorem extract_busError (hbus : s.hazard.busError = true) (hread : s.hazard.readHit = false) :
    EndsInBusError .extract s s.dstAddr.toNat (extractRoom s) := by
  have hchecked := firstError_extract_eq_none s hchan hpx hsrc hdst hapart
  have hsize : 0 < imgBytes s := Nat.mul_pos hpx (Nat.lt_of_lt_of_le (by decide) hchan)
  exact endsInBusError_of_checked .extract s _ _ rfl hchecked rfl
    ((busErrorReaches_iff .extract s).mpr ⟨hbus, ⟨s.srcAddr.toNat, imgBytes s⟩, by simp [readBuffers], hsize⟩) hread

theorem extract_success (hcalm : Undisturbed s) :
    ∃ t, exec .extract s = .next t ∧
      t = ended 0 { s with mem := t.mem, outLen := BitVec.ofNat 32 (extracted s).length } ∧
      t.mem.readBytes s.dstAddr.toNat (extracted s).length = extracted s ∧
      ∀ a, ¬(s.dstAddr.toNat ≤ a ∧ a < s.dstAddr.toNat + (extracted s).length) → t.mem.read a = s.mem.read a := by
  have hcutoff : (extracted s).length ≤ s.maxExtract.toNat := (length_extracted_le s).trans (Nat.min_le_left _ _)
  have hchecked := firstError_extract_eq_none s hchan hpx hsrc hdst hapart
  exact exec_stores_bytes .extract s _ rfl hchecked hcalm rfl rfl rfl (Nat.lt_of_le_of_lt hcutoff s.maxExtract.isLt)

end

/-- Settles O38: the command's six ends. -/
theorem extractEffect : Obligations.ExtractEffect := by
  unfold Obligations.ExtractEffect
  refine ⟨decode_encode .extract, ?_⟩
  rintro s px sz room rfl rfl rfl
  have hi : Instr.extract = .embed ∨ Instr.extract = .extract ∨ Instr.extract = .noise := .inr (.inl rfl)
  refine ⟨exec_of_fewChannels .extract hi s, exec_of_emptyImage .extract hi s, extract_outOfRange s,
    extract_overlapping s, extract_busError s, fun hchan hpx hsrc hdst hapart hcalm => ?_⟩
  obtain ⟨t, hexec, hframe, hbytes, hother⟩ := extract_success s hchan hpx hsrc hdst hapart hcalm
  exact ⟨t, extracted s, hexec, rfl, length_extracted_le s, hframe, hbytes, hother⟩

/-! ### The round trip (R413) -/

theorem operands_of_checked_embed (s : State) (hchecked : firstError .embed s = none) :
    3 ≤ imgChannels s ∧ 0 < imgPixels s ∧ 0 < lenOf s ∧ 3 * lenOf s ≤ imgPixels s := by
  have hpass := (firstError_none_iff .embed s).mp hchecked
  have hgeom := hpass (.geom, imgWidth s == 0 || imgHeight s == 0) (by simp [checks])
  refine ⟨?_, (geometry_passes_iff s).mp hgeom, ?_, ?_⟩
  · simpa using hpass (.chan, decide (imgChannels s < 3)) (by simp [checks])
  · simpa [Nat.pos_iff_ne_zero] using hpass (.empty, lenOf s == 0) (by simp [checks])
  · simpa using hpass (.capacity, decide (imgPixels s < 3 * lenOf s)) (by simp [checks])

/-- What an undisturbed EMBED leaves at its destination where it succeeds. -/
theorem embed_succeeded (s t : State) (hcalm : Undisturbed s) (h : exec .embed s = .next t)
    (hchecked : firstError .embed s = none) :
    t.mem.readBytes s.dstAddr.toNat (imgBytes s) =
      embedImage (sourceImage s) (imgChannels s) (payload s) (bitPos s) := by
  rw [exec_of_undisturbed .embed s rfl hchecked hcalm] at h
  obtain rfl := Host.Outcome.next.inj h
  exact readBytes_storeResult (embedResult s) s _ (length_embedResult s)

/-- Settles O49: the bits that EXTRACT reads are those that EMBED carried, so its scan returns the payload. -/
theorem embedExtractRoundTrip : Obligations.EmbedExtractRoundTrip := by
  unfold Obligations.EmbedExtractRoundTrip
  intro s t u hcalm hexec herr hucalm hw hh hc hp hmax hvalid himage hsrc hdst hapart
  have hchecked := firstError_eq_none_of_err_eq_zero .embed s t rfl hexec herr
  obtain ⟨hchan, hpx, hlen, hcap⟩ := operands_of_checked_embed s hchecked
  have hupx : imgPixels u = imgPixels s := by simp only [imgPixels, imgWidth, imgHeight, hw, hh]
  have huchan : imgChannels u = imgChannels s := by rw [imgChannels, hc, imgChannels]
  have hpay : (payload s).length = s.len.toNat := Memory.length_readBytes _ _ _
  have hextracted : extracted u = payload s := by
    rw [extracted, sourceImage, himage, embed_succeeded s t hcalm hexec hchecked, hupx, huchan, bitPos, bitPos, hp]
    exact extractImage_embedImage u.build (sourceImage s) (payload s) _ _ _ _ hchan (Memory.length_readBytes _ _ _)
      (hpay.symm ▸ hcap) (clampBitPos_lt _) (hpay.symm ▸ hlen) (hpay.symm ▸ hmax) hvalid
  obtain ⟨w, huexec, hframe, hbytes, -⟩ :=
    extract_success u (huchan ▸ hchan) (hupx ▸ hpx) hsrc hdst hapart hucalm
  have houtLen : w.outLen = s.len := by
    rw [hframe, hextracted, hpay]
    exact BitVec.ofNat_toNat 32 s.len
  rw [hextracted, hpay] at hbytes
  refine ⟨w, huexec, by rw [hframe]; rfl, houtLen, ?_⟩
  rw [houtLen, hbytes, payload, lenOf]

end Sys2Proof.Machine
end

section
/-!
The noise injector's functions (spec/44_noise_injector.md rules R452 to R454, R456, R458, R459). A byte of an image has
a pixel and a channel; what one attempt does to a byte is said once, and the image after all attempts follows by
induction on their number.
-/

namespace Sys2Proof.Machine

/-! ### The draws (R452) -/

theorem rng_lt (bld : Build) (seed : Word) (k n : Nat) (hn : 0 < n) : rng bld seed k n < n := Nat.mod_lt _ hn

/-! ### One channel value and its delta (R454) -/

theorem clampInt_byte (v : Int) : clampInt v 0 255 = max 0 (min 255 v) := by
  rw [clampInt]
  split
  · omega
  · split <;> omega

theorem toNat_addClamped (v : Byte) (d : Int) :
    ((addClamped v d).toNat : Int) = max 0 (min 255 ((v.toNat : Int) + d)) := by
  rw [addClamped, clampInt_byte, BitVec.toNat_ofNat]
  omega

/-- The clamp never moves a value further than its delta, as the value lies between the two limits. -/
theorem addClamped_near (v : Byte) (d : Int) (a : Nat) (hlo : -(a : Int) ≤ d) (hhi : d ≤ a) :
    (addClamped v d).toNat ≤ v.toNat + a ∧ v.toNat ≤ (addClamped v d).toNat + a := by
  have hclamp := toNat_addClamped v d
  have hv := v.isLt
  omega

/-! ### One pixel (R453) -/

theorem getD_modify (l : List Byte) (k x : Nat) (f : Byte → Byte) :
    (l.modify k f).getD x 0 = if k = x ∧ x < l.length then f (l.getD x 0) else l.getD x 0 := by
  by_cases hx : x < l.length
  · simp [List.getD, List.getElem_modify, hx]
  · simp [List.getD, hx]

/-- A byte's position is that of channel `ch` of pixel `i`. -/
theorem pixel_channel_iff {c ch : Nat} (hch : ch < c) (i x : Nat) : x / c = i ∧ x % c = ch ↔ x = i * c + ch := by
  rw [Nat.div_mod_unique (by omega), Nat.add_comm, Nat.mul_comm]
  exact ⟨fun h => h.1.symm, fun h => ⟨h.symm, hch⟩⟩

/-- A channel value of pixel `i` among the first three is changed, by the clamped delta, and no other byte is. -/
theorem getD_perturbPixel {c : Nat} (hc : 3 ≤ c) (i : Nat) (d : Int) (out : List Byte) (x : Nat) :
    (perturbPixel c i d out).getD x 0 =
      if x < out.length ∧ x / c = i ∧ x % c < 3 then addClamped (out.getD x 0) d else out.getD x 0 := by
  have hposition := fun (ch : Nat) (hch : ch < 3) => pixel_channel_iff (hch.trans_le hc) i x
  have hchannels : x / c = i ∧ x % c < 3 ↔ x = i * c ∨ x = i * c + 1 ∨ x = i * c + 2 := by
    rw [← hposition 1 (by decide), ← hposition 2 (by decide), ← Nat.add_zero (i * c), ← hposition 0 (by decide)]
    omega
  simp only [perturbPixel, List.foldl_cons, List.foldl_nil, getD_modify, List.length_modify, hchannels]
  grind

/-- The two outcomes of a byte, the changed one as an integer clamped to `[0, 255]`. -/
theorem toNat_getD_perturbPixel {c : Nat} (hc : 3 ≤ c) (i : Nat) (d : Int) (out : List Byte) (x : Nat)
    (hx : x < out.length) :
    (x / c = i → x % c < 3 → (((perturbPixel c i d out).getD x 0).toNat : Int) =
      max 0 (min 255 ((out.getD x 0).toNat + d))) ∧
    (x / c ≠ i ∨ 3 ≤ x % c → (perturbPixel c i d out).getD x 0 = out.getD x 0) := by
  rw [getD_perturbPixel hc]
  refine ⟨fun hpixel hchannel => ?_, fun hother => if_neg fun ⟨_, hpixel, hchannel⟩ => ?_⟩
  · rw [if_pos ⟨hx, hpixel, hchannel⟩, toNat_addClamped]
  · omega

/-! ### One attempt (R453) -/

section
variable (draw : Nat → Nat → Nat) (w h c a t : Nat) (st : Nat × List Byte)

/-- The pixel that an attempt draws: the column first, then the row. -/
def drawnPixel (k : Nat) : Nat := draw (k + 1) h * w + draw k w

/-- The delta that an attempt on an open pixel adds, from the third draw. -/
def drawnDelta (k : Nat) : Int := (draw (k + 2) (2 * a + 1) : Int) - (a : Int)

theorem noiseAttempt_of_protected (hpixel : drawnPixel draw w h st.1 < t) :
    noiseAttempt draw w h c a t st = (st.1 + 2, st.2) := if_pos hpixel

theorem noiseAttempt_of_open (hpixel : t ≤ drawnPixel draw w h st.1) :
    noiseAttempt draw w h c a t st =
      (st.1 + 3, perturbPixel c (drawnPixel draw w h st.1) (drawnDelta draw a st.1) st.2) := if_neg hpixel.not_gt

theorem drawnDelta_mem (hdraw : ∀ k m, 0 < m → draw k m < m) (k : Nat) :
    -(a : Int) ≤ drawnDelta draw a k ∧ drawnDelta draw a k ≤ a := by
  have := hdraw (k + 2) (2 * a + 1) (Nat.succ_pos _)
  rw [drawnDelta]
  omega

variable {c} (hc : 3 ≤ c) (x : Nat)
include hc

/-- An attempt leaves a byte, or adds its delta to it: then the byte is one of the first three channels of an open
pixel. -/
theorem getD_noiseAttempt_cases :
    (noiseAttempt draw w h c a t st).2.getD x 0 = st.2.getD x 0 ∨
      (t ≤ x / c ∧ x % c < 3 ∧
        (noiseAttempt draw w h c a t st).2.getD x 0 = addClamped (st.2.getD x 0) (drawnDelta draw a st.1)) := by
  obtain hpixel | hpixel := Nat.lt_or_ge (drawnPixel draw w h st.1) t
  · rw [noiseAttempt_of_protected draw w h c a t st hpixel]
    exact .inl rfl
  · rw [noiseAttempt_of_open draw w h c a t st hpixel, getD_perturbPixel hc]
    split
    next hx =>
      obtain ⟨-, hxpixel, hchannel⟩ := hx
      exact .inr ⟨hxpixel ▸ hpixel, hchannel, rfl⟩
    next => exact .inl rfl

/-! ### All attempts (R456, R458, R459) -/

theorem getD_noiseAttempts_of_kept (n : Nat) (hx : x / c < t ∨ 3 ≤ x % c) :
    (noiseAttempts draw w h c a t n st).2.getD x 0 = st.2.getD x 0 := by
  induction n with
  | zero => rfl
  | succ n ih =>
    rw [noiseAttempts_succ, ← ih]
    refine (getD_noiseAttempt_cases draw w h a t _ hc x).resolve_right ?_
    rintro ⟨hopen, hchannel, -⟩
    omega

theorem getD_noiseAttempts_near (hdraw : ∀ k m, 0 < m → draw k m < m) (n : Nat) :
    ((noiseAttempts draw w h c a t n st).2.getD x 0).toNat ≤ (st.2.getD x 0).toNat + n * a ∧
      (st.2.getD x 0).toNat ≤ ((noiseAttempts draw w h c a t n st).2.getD x 0).toNat + n * a := by
  induction n with
  | zero => simp [noiseAttempts]
  | succ n ih =>
    rw [noiseAttempts_succ, Nat.succ_mul]
    obtain hkept | ⟨-, -, hadded⟩ := getD_noiseAttempt_cases draw w h a t (noiseAttempts draw w h c a t n st) hc x
    · rw [hkept]
      omega
    · obtain ⟨hlo, hhi⟩ := drawnDelta_mem draw a hdraw (noiseAttempts draw w h c a t n st).1
      have hnear := addClamped_near ((noiseAttempts draw w h c a t n st).2.getD x 0) _ a hlo hhi
      rw [hadded]
      omega

end

/-- Settles O51: the states after `m` attempts, with what each attempt can do to a byte, by induction
on their number. -/
theorem noiseProtectsAndClamps : Obligations.NoiseProtectsAndClamps := by
  unfold Obligations.NoiseProtectsAndClamps
  refine ⟨toNat_addClamped, fun draw img w h c n a t hdraw hc _ _ _ => ⟨fun i ch hch hkept => ?_, fun x => ?_, ?_⟩⟩
  · obtain ⟨hpixel, hchannel⟩ := (pixel_channel_iff hch i _).mpr rfl
    exact getD_noiseAttempts_of_kept draw w h a t (0, img) hc _ n (by rwa [hpixel, hchannel])
  · exact getD_noiseAttempts_near draw w h a t (0, img) hc x hdraw n
  · refine ⟨fun m => noiseAttempts draw w h c a t m (0, img), rfl, rfl, ?_⟩
    rintro m k out i - hst rfl
    simp only [noiseAttempts_succ, hst]
    exact ⟨noiseAttempt_of_protected draw w h c a t (k, out), fun hopen =>
      ⟨_, noiseAttempt_of_open draw w h c a t (k, out) hopen, length_perturbPixel _ _ _ _,
        toNat_getD_perturbPixel hc _ _ out⟩⟩

end Sys2Proof.Machine
end

section
/-!
NOISE (spec/44_noise_injector.md rule R455): its buffer checks after the image checks it shares with EMBED and EXTRACT,
then its ends.
-/

namespace Sys2Proof.Machine

section
variable (s : State)

theorem rangeError_noise_iff :
    rangeError .noise s = true ↔
      ¬(Fits s.build.memSize s.srcAddr.toNat (imgBytes s) ∧ Fits s.build.memSize s.dstAddr.toNat (imgBytes s)) :=
  rangeError_iff_of_buffers rfl rfl

theorem overlapError_noise_iff :
    overlapError .noise s = true ↔ ¬Apart s.srcAddr.toNat (imgBytes s) s.dstAddr.toNat (imgBytes s) := by
  simp [overlapError_iff, readBuffers, writeBuffers, inPlaceAllowed]

theorem length_noiseResult : (noiseResult s).bytes.length = imgBytes s := by
  simp [noiseResult]

variable (hchan : 3 ≤ imgChannels s) (hpx : 0 < imgPixels s)
include hchan hpx

theorem firstError_noise_eq :
    firstError .noise s =
      if rangeError .noise s then some .range else if overlapError .noise s then some .overlap else none := by
  refine firstError_of_passed .noise s [_, _] rfl ?_
  simp [hchan.not_gt, (geometry_passes_iff s).mpr hpx]

theorem noise_outOfRange
    (hrange : ¬(Fits s.build.memSize s.srcAddr.toNat (imgBytes s) ∧
      Fits s.build.memSize s.dstAddr.toNat (imgBytes s))) : exec .noise s = .next (ended 10 s) := by
  refine exec_of_firstError .noise s .range ?_
  rw [firstError_noise_eq s hchan hpx, if_pos ((rangeError_noise_iff s).mpr hrange)]

variable (hsrc : Fits s.build.memSize s.srcAddr.toNat (imgBytes s))
  (hdst : Fits s.build.memSize s.dstAddr.toNat (imgBytes s))
include hsrc hdst

theorem firstError_noise_of_inRange :
    firstError .noise s = if overlapError .noise s then some .overlap else none := by
  rw [firstError_noise_eq s hchan hpx, if_neg ((rangeError_noise_iff s).not.mpr (not_not_intro ⟨hsrc, hdst⟩))]

theorem noise_overlapping (hoverlap : ¬Apart s.srcAddr.toNat (imgBytes s) s.dstAddr.toNat (imgBytes s)) :
    exec .noise s = .next (ended 11 s) := by
  refine exec_of_firstError .noise s .overlap ?_
  rw [firstError_noise_of_inRange s hchan hpx hsrc hdst, if_pos ((overlapError_noise_iff s).mpr hoverlap)]

variable (hapart : Apart s.srcAddr.toNat (imgBytes s) s.dstAddr.toNat (imgBytes s))
include hapart

theorem firstError_noise_eq_none : firstError .noise s = none := by
  rw [firstError_noise_of_inRange s hchan hpx hsrc hdst,
    if_neg ((overlapError_noise_iff s).not.mpr (not_not_intro hapart))]

theorem noise_busError (hbus : s.hazard.busError = true) (hread : s.hazard.readHit = false) :
    EndsInBusError .noise s s.dstAddr.toNat (imgBytes s) := by
  have hchecked := firstError_noise_eq_none s hchan hpx hsrc hdst hapart
  have hsize : 0 < imgBytes s := Nat.mul_pos hpx (Nat.lt_of_lt_of_le (by decide) hchan)
  exact endsInBusError_of_checked .noise s _ _ rfl hchecked rfl
    ((busErrorReaches_iff .noise s).mpr ⟨hbus, ⟨s.srcAddr.toNat, imgBytes s⟩, by simp [readBuffers], hsize⟩) hread

end

/-- Settles O39: the draws' range, and the command's six ends. -/
theorem noiseEffect : Obligations.NoiseEffect := by
  unfold Obligations.NoiseEffect
  refine ⟨decode_encode .noise, rng_lt, ?_⟩
  rintro s px sz rfl rfl
  have hi : Instr.noise = .embed ∨ Instr.noise = .extract ∨ Instr.noise = .noise := .inr (.inr rfl)
  refine ⟨exec_of_fewChannels .noise hi s, exec_of_emptyImage .noise hi s, noise_outOfRange s, noise_overlapping s,
    fun hchan hpx hsrc hdst hapart _ => noise_busError s hchan hpx hsrc hdst hapart,
    fun hchan hpx hsrc hdst hapart hsize hcalm => ?_⟩
  have hchecked := firstError_noise_eq_none s hchan hpx hsrc hdst hapart
  have hsz : imgBytes s < 2 ^ 32 := size_lt_of_apart hsrc hdst hapart hsize
  obtain ⟨t, hexec, hframe, hbytes, hother⟩ :=
    exec_stores_bytes .noise s (imgBytes s) rfl hchecked hcalm (length_noiseResult s) rfl rfl hsz
  exact ⟨t, hexec, hframe, hsz, hbytes, hother⟩

end Sys2Proof.Machine
end

section
/-!
The command without work: NOP is its completion (spec/45_control.md rule R500).
-/

namespace Sys2Proof.Machine

/-- The model's completion is the one that the statements write out. -/
theorem complete_eq_ended (e : ErrCode) (s : State) : complete e s = ended e.code s := rfl

theorem exec_nop (s : State) : exec .nop s = .next (complete .ok s) := rfl

/-- Settles O26: the word is NOP's encoding, and NOP's end is the completion with code 0. -/
theorem nopOnlyCompletes : Obligations.NopOnlyCompletes := by
  unfold Obligations.NopOnlyCompletes
  refine ⟨decode_encode .nop, fun s => ?_⟩
  rw [exec_nop, complete_eq_ended]
  rfl

end Sys2Proof.Machine
end

section
/-!
The interrupt (spec/60_exceptions.md rules R540 to R543): what its two registers read, who sets and who clears the
pending bits, and that the line falls only where the host clears it or a reset does.
-/

namespace Sys2Proof.Machine

/-! ### What the interrupt registers read (R540, R541) -/

theorem getLsbD_irqEnWord (s : State) (k : Nat) :
    (irqEnWord s).getLsbD k = ((decide (k = 0) && s.doneIe) || (decide (k = 1) && s.wbusyIe)) := by
  simp [irqEnWord, getLsbD_flagBit]

theorem getLsbD_irqStatusWord (s : State) (k : Nat) :
    (irqStatusWord s).getLsbD k = ((decide (k = 0) && s.doneIp) || (decide (k = 1) && s.wbusyIp)) := by
  simp [irqStatusWord, getLsbD_flagBit]

/-- Settles O17: the write stores bits 0 and 1, and the register reads no other bit back. -/
theorem irqEnableTakesEffectAtOnce : Obligations.IrqEnableTakesEffectAtOnce := by
  unfold Obligations.IrqEnableTakesEffectAtOnce
  refine ⟨⟨rfl, rfl⟩, fun s v hreset => ?_⟩
  have hwrite : portAccess ⟨true, 0x010, .word, v⟩ s = answer 0 false (writeIrqEn v s) :=
    portAccess_write_of_offset s 0x010 v .irqEn hreset rfl
  refine ⟨hwrite, fun k => ?_⟩
  rw [hwrite, readReg_answer, readReg, getLsbD_irqEnWord, writeIrqEn_doneIe, writeIrqEn_wbusyIe]
  match k with
  | 0 | 1 => simp
  | k + 2 => simp

/-! ### Who sets the pending bits (R541) -/

/-- A completion takes part in the interrupt by `DONE_IP` alone. -/
theorem exec_wbusyIp (i : Instr) (s t : State) (h : exec i s = .next t) : t.wbusyIp = s.wbusyIp := by
  obtain ⟨hframe, -⟩ := commandFrame i s t h
  rw [hframe]

/-- Every register write that a busy block ignores is the same operation, on `CTRL` too (R34, R160). -/
theorem writeReg_ignored_of_busy (s : State) (r : Reg) (v : Word) (hbusy : s.busy = true)
    (hr : frozenWidth r ≠ none ∨ r = .ctrl) : writeReg r v s = ignoredWrite s := by
  obtain hfrozen | rfl := hr
  · exact writeReg_frozen_of_busy s r v hbusy hfrozen
  · exact writeFrozen_of_busy s _ hbusy

/-- Settles O18: a completion sets `DONE_IP` whatever was pending before it, so also after a clearing write. -/
theorem pendingBitsSetByEventsClearedByOnes : Obligations.PendingBitsSetByEventsClearedByOnes := by
  unfold Obligations.PendingBitsSetByEventsClearedByOnes
  refine ⟨fun i s t h => ⟨(exec_done i s t h).2, exec_wbusyIp i s t h⟩, fun s r v hbusy hr => ?_,
    fun _ _ => rfl, getLsbD_irqStatusWord, fun i s t v h => (exec_done i _ t h).2⟩
  rw [writeReg_ignored_of_busy s r v hbusy hr, ignoredWrite_wbusyIp]

/-! ### What keeps the line asserted (R542) -/

/-- Out of reset the line is the two pending bits under their enables. -/
theorem irq_eq_true_iff (s : State) :
    irq s = true ↔ s.inReset = false ∧
      ((s.doneIp = true ∧ s.doneIe = true) ∨ (s.wbusyIp = true ∧ s.wbusyIe = true)) := by
  simp only [irq, Bool.and_eq_true, Bool.or_eq_true, Bool.not_eq_true']

/-- From `s` to `t` nothing happened that lowers the line: no reset began, the enables are as they were and no
pending bit was cleared. -/
structure KeepsInterrupt (s t : State) : Prop where
  inReset : s.inReset = false → t.inReset = false
  doneIe : t.doneIe = s.doneIe
  wbusyIe : t.wbusyIe = s.wbusyIe
  doneIp : s.doneIp = true → t.doneIp = true
  wbusyIp : s.wbusyIp = true → t.wbusyIp = true

theorem KeepsInterrupt.refl (s : State) : KeepsInterrupt s s := ⟨id, rfl, rfl, id, id⟩

theorem KeepsInterrupt.irq {s t : State} (h : KeepsInterrupt s t) (hirq : irq s = true) : irq t = true := by
  obtain ⟨hreset, hpending⟩ := (irq_eq_true_iff s).mp hirq
  refine (irq_eq_true_iff t).mpr ⟨h.inReset hreset, ?_⟩
  rw [h.doneIe, h.wbusyIe]
  exact hpending.imp (.imp_left h.doneIp) (.imp_left h.wbusyIp)

theorem complete_keepsInterrupt (e : ErrCode) (s : State) : KeepsInterrupt s (complete e s) :=
  ⟨id, rfl, rfl, fun _ => rfl, id⟩

theorem exec_keepsInterrupt (i : Instr) (s t : State) (h : exec i s = .next t) : KeepsInterrupt s t := by
  obtain ⟨hframe, -⟩ := commandFrame i s t h
  rw [hframe]
  exact ⟨id, rfl, rfl, fun _ => rfl, id⟩

theorem engineTurn_keepsInterrupt (s t : State) (h : engineTurn s = .next t) : KeepsInterrupt s t := by
  obtain ⟨-, hrun⟩ | ⟨-, rfl⟩ := engineTurn_cases s t h
  · obtain ⟨i, -, hexec⟩ | ⟨e, -, rfl⟩ := runCommand_cases s t hrun
    · exact exec_keepsInterrupt i s t hexec
    · exact complete_keepsInterrupt .cmd s
  · exact .refl t

theorem writeFrozen_keepsInterrupt (s t : State) (h : KeepsInterrupt s t) :
    KeepsInterrupt s (writeFrozen s t) := by
  unfold writeFrozen
  split
  · exact ⟨id, rfl, rfl, id, fun _ => rfl⟩
  · exact h

/-- Of the registers only the interrupt's own two can lower the line when written. -/
theorem writeReg_keepsInterrupt (r : Reg) (v : Word) (s : State) (hen : r ≠ .irqEn) (hstatus : r ≠ .irqStatus) :
    KeepsInterrupt s (writeReg r v s) := by
  cases r
  case irqEn => exact absurd rfl hen
  case irqStatus => exact absurd rfl hstatus
  case id | version | status | res | outLen | sboxWin | invsboxWin | rconWin | rkWin => exact .refl s
  all_goals exact writeFrozen_keepsInterrupt s _ ⟨id, rfl, rfl, id, id⟩

/-- A register access by which the host can clear the interrupt: a write of `IRQ_EN` or `IRQ_STATUS`. -/
def ClearingWrite (a : PortAccess) : Prop :=
  a.write = true ∧ (a.offset.toNat = offsetOf .irqEn ∨ a.offset.toNat = offsetOf .irqStatus)

theorem portAccess_keepsInterrupt (a : PortAccess) (s : State) (ha : ¬ClearingWrite a) :
    KeepsInterrupt s (portAccess a s) := by
  obtain ⟨data, error, hp⟩ | ⟨-, -, hwrite, r, hreg, hp⟩ := portAccess_cases a s
  · rw [hp]
    exact ⟨id, rfl, rfl, id, id⟩
  · have hoffset := (regAt_eq_some_iff a.offset r).mp hreg
    have hkept := writeReg_keepsInterrupt r a.data s
      (fun hr => ha ⟨hwrite, .inl (hr ▸ hoffset)⟩) (fun hr => ha ⟨hwrite, .inr (hr ▸ hoffset)⟩)
    rw [hp]
    exact { hkept with }

theorem hostAccess_keepsInterrupt (h : HostAccess) (s : State)
    (ha : ∀ a, windowAccess s.build h = some a → ¬ClearingWrite a) : KeepsInterrupt s (hostAccess h s) := by
  obtain ⟨a, hwindow, hp⟩ | ⟨-, hkept⟩ := hostAccess_cases h s
  · rw [hp]
    exact portAccess_keepsInterrupt a s (ha a hwindow)
  · rw [hkept]
    exact .refl s

theorem noteBusError_keepsInterrupt (s : State) : KeepsInterrupt s (noteBusError s) := by
  unfold noteBusError
  split <;> exact ⟨id, rfl, rfl, id, id⟩

theorem agentReadByte_keepsInterrupt (a : Nat) (s : State) : KeepsInterrupt s (agentReadByte a s) := by
  unfold agentReadByte
  split <;> exact ⟨id, rfl, rfl, id, id⟩

/-- An input that can lower the line: the assertion of reset, or a clearing write, by port offset or by host
address. -/
def Event.CanClearInterrupt (bld : Build) (e : Event) : Prop :=
  e = .resetAssert ∨ ∃ a : PortAccess,
    (e = .port a ∨ ∃ h, e = .host h ∧ windowAccess bld h = some a) ∧ ClearingWrite a

theorem handle_keepsInterrupt (e : Event) (s t : State) (h : handle e s = .next t)
    (he : ¬e.CanClearInterrupt s.build) : KeepsInterrupt s t := by
  cases e with
  | port a =>
    cases h
    exact portAccess_keepsInterrupt a s fun hclear => he (.inr ⟨a, .inl rfl, hclear⟩)
  | host a =>
    cases h
    exact hostAccess_keepsInterrupt a s fun p hwindow hclear =>
      he (.inr ⟨p, .inr ⟨a, rfl, hwindow⟩, hclear⟩)
  | engine => exact engineTurn_keepsInterrupt s t h
  | busError => cases h; exact noteBusError_keepsInterrupt s
  | agentWrite a v =>
    obtain ⟨-, rfl⟩ := next_of_guarded h
    exact ⟨id, rfl, rfl, id, id⟩
  | agentRead a =>
    obtain ⟨-, rfl⟩ := next_of_guarded h
    exact agentReadByte_keepsInterrupt a.toNat s
  | resetAssert => exact absurd (.inl rfl) he
  | resetRelease => cases h; exact ⟨fun _ => rfl, rfl, rfl, id, id⟩

/-- A step that lowers the line handles an input that can. -/
theorem step_lowers_irq (s t : State) (h : step s = .next t) (hup : irq s = true) (hdown : irq t = false) :
    ∃ e rest, s.inbox = e :: rest ∧ e.CanClearInterrupt s.build := by
  have hfell : ¬KeepsInterrupt s t := fun hkept => by simp [hkept.irq hup] at hdown
  obtain ⟨-, ⟨-, hturn⟩ | ⟨e, rest, hcons, hhandle⟩⟩ := step_cases s t h
  · exact absurd (engineTurn_keepsInterrupt s t hturn) hfell
  · refine ⟨e, rest, hcons, by_contra fun he => hfell ?_⟩
    have hkept := handle_keepsInterrupt e { s with inbox := rest } t hhandle he
    exact { hkept with }

/-- Settles O19: the line's formula out of reset, its reset value, and the inputs that can lower it. -/
theorem interruptStaysUntilCleared : Obligations.InterruptStaysUntilCleared := by
  unfold Obligations.InterruptStaysUntilCleared
  refine ⟨fun s hreset => ?_, rfl, step_lowers_irq⟩
  rw [irq_eq_true_iff]
  exact and_iff_right hreset

end Sys2Proof.Machine
end

section
/-!
Error completions (spec/60_exceptions.md rules R520, R522): the code that a command ends with is a function of its
checks and of the bus, and any other code than success and `ERR_BUS` is the completion of a failed check.
-/

namespace Sys2Proof.Machine

/-- No check reports success or `ERR_BUS` (R521, R522). -/
theorem checks_code (i : Instr) (s : State) : ∀ c ∈ checks i s, c.1.code ≠ 0 ∧ c.1.code ≠ 12 := by
  cases i
  case nop | gfPmul | gfReduce | gfXtime | gfMul | gfInv | gfAffine | gfSbox => simp [checks]
  all_goals simp [checks, ErrCode.code]

theorem firstError_code (i : Instr) (s : State) (e : ErrCode) (h : firstError i s = some e) :
    e.code ≠ 0 ∧ e.code ≠ 12 :=
  checks_code i s _ (firstError_mem i s e h)

/-- The code that a command ends with: that of its first failing check, or what became of its accesses. A command
without buffers makes none, so that no bus error reaches it. -/
def completionCode (i : Instr) (s : State) : ErrCode :=
  match firstError i s with
  | some e => e
  | none => if busErrorReaches i s then .bus else .ok

theorem completionCode_of_firstError (i : Instr) (s : State) (e : ErrCode) (h : firstError i s = some e) :
    completionCode i s = e := by
  rw [completionCode, h]

theorem completionCode_of_checked (i : Instr) (s : State) (h : firstError i s = none) :
    completionCode i s = if busErrorReaches i s then .bus else .ok := by
  rw [completionCode, h]

theorem completionCode_mem (i : Instr) (s : State) (m : Memory) :
    completionCode i { s with mem := m } = completionCode i s := by
  rw [completionCode, firstError_mem_hazard i s m s.hazard, busErrorReaches_mem, completionCode]

theorem busErrorReaches_of_no_access (i : Instr) (s : State) (h : accessesMemory i = false) :
    busErrorReaches i s = false := by
  cases i
  case encBlock | decBlock | cbcEnc | cbcDec | embed | extract | noise => cases h
  all_goals simp [busErrorReaches, readBuffers, writeBuffers]

theorem accessesMemory_of_writesResult (i : Instr) (h : writesResult i = true) : accessesMemory i = false := by
  cases i
  case nop | keyInit | encBlock | decBlock | cbcEnc | cbcDec | embed | extract | noise => cases h
  all_goals rfl

theorem exec_err (i : Instr) (s t : State) (h : exec i s = .next t) : t.err = (completionCode i s).code := by
  have hsuccess (hchecked : firstError i s = none) (hno : accessesMemory i = false) :
      (completionCode i s).code = 0 := by
    rw [completionCode_of_checked i s hchecked, busErrorReaches_of_no_access i s hno]
    rfl
  obtain ⟨e, he, rfl⟩ | ⟨hchecked, ⟨rfl, rfl⟩ | ⟨hres, v, rfl⟩ | ⟨rfl, rfl⟩ | ⟨-, r, rfl⟩⟩ := exec_cases i s t h
  · rw [completionCode_of_firstError i s e he, complete_err]
  · exact (hsuccess hchecked rfl).symm
  · exact (hsuccess hchecked (accessesMemory_of_writesResult i hres)).symm
  · exact (hsuccess hchecked rfl).symm
  · rw [finishMemory_frame, completionCode_of_checked i s hchecked, apply_ite ErrCode.code]

/-- A command that ends with an error other than `ERR_BUS` ended at a failed check. -/
theorem firstError_of_err (i : Instr) (s t : State) (h : exec i s = .next t) (hok : t.err ≠ 0)
    (hbus : t.err ≠ 12) : ∃ e, firstError i s = some e := by
  refine Option.ne_none_iff_exists'.mp fun hchecked => ?_
  rw [exec_err i s t h, completionCode_of_checked i s hchecked] at hok hbus
  split at hok
  · next hreach => exact hbus (by rw [if_pos hreach]; rfl)
  · exact hok rfl

/-- Settles O20: the end at a failed check is the completion alone, and neither the checks nor the bus depend on
what the data space holds. -/
theorem errorsChangeNothingElse : Obligations.ErrorsChangeNothingElse := by
  unfold Obligations.ErrorsChangeNothingElse
  refine ⟨fun i s e he => ?_, fun i s t h hok hbus => ?_, fun i s t u m ht hu => ?_⟩
  · rw [exec_of_firstError i s e he, complete_eq_ended]
    exact ⟨rfl, firstError_code i s e he⟩
  · obtain ⟨e, he⟩ := firstError_of_err i s t h hok hbus
    obtain rfl : complete e s = t := Host.Outcome.next.inj ((exec_of_firstError i s e he).symm.trans h)
    exact complete_eq_ended e s
  · rw [exec_err i _ u hu, completionCode_mem, exec_err i s t ht]

end Sys2Proof.Machine
end

section
/-!
Reset (spec/70_reset_and_hazards.md rules R580 to R583, R595): the values that a reset leaves, what its assertion
aborts, what the block does while it is asserted, and that a block left alone completes its command.
-/

namespace Sys2Proof.Machine

/-! ### Right after reset (R580) -/

/-- Settles O59: nothing is listed, running, valid or in reset there. -/
theorem invariantHoldsAtReset : Obligations.InvariantHoldsAtReset := by
  unfold Obligations.InvariantHoldsAtReset
  exact
    { memCanonical := by decide
      memExists := nofun
      errCode := Nat.zero_le _
      busyNotDone := nofun
      idleUndisturbed := fun _ => rfl
      keyTables := nofun
      heldInReset := nofun }

/-- With `KEY_VALID` at 0 the table windows read 0; of the other registers three are not 0 (R41, R580). -/
theorem readReg_reset_eq_zero (r : Reg) (hid : r ≠ .id) (hversion : r ≠ .version)
    (hmax : r ≠ .maxExtract) : readReg State.reset r = 0 := by
  cases r
  case id => exact absurd rfl hid
  case version => exact absurd rfl hversion
  case maxExtract => exact absurd rfl hmax
  case sboxWin | invsboxWin | rconWin | rkWin =>
    have hinvalid : State.reset.keyValid = false := rfl
    rw [readReg, windowWord_eq_zero State.reset _ _ (.inl hinvalid)]
  case key k => exact Vector.getElem_replicate k.isLt
  case iv k => exact Vector.getElem_replicate k.isLt
  all_goals rfl

/-- Settles O23: the three registers that are not 0, and all the others. -/
theorem resetValues : Obligations.ResetValues := by
  unfold Obligations.ResetValues
  exact ⟨rfl, rfl, rfl, readReg_reset_eq_zero, rfl, rfl, rfl⟩

/-! ### The assertion of reset (R582, R583) -/

/-- What an asserted reset does not put at a fixed value: the data space and the count of free values, by the
write buffers of the aborted command alone, and the fields that are no register's. -/
theorem assertReset_frame (s : State) :
    assertReset s =
      { State.reset with
        mem := (assertReset s).mem, freeIx := (assertReset s).freeIx, inReset := true, build := s.build,
        inbox := s.inbox, portData := s.portData, portError := s.portError, agentData := s.agentData } := by
  rw [assertReset, scrambleBuffers_frame]
  rfl

theorem assertReset_mem (s : State) : (assertReset s).mem = (scrambleBuffers (ownedWrites s) s).mem := rfl

theorem assertReset_read_outside (s : State) (a : Nat)
    (ha : ∀ i, decode s.ctrl = .ok i → inBuffers a (writeBuffers i s) = false) :
    (assertReset s).mem.read a = s.mem.read a := by
  rw [assertReset_mem]
  obtain hnone | ⟨i, hdecode, -, howned⟩ := ownedWrites_cases s
  · rw [hnone]
    rfl
  · rw [howned]
    exact scrambleBuffers_read_outside _ s a (ha i hdecode)

theorem assertReset_mem_of_idle (s : State) (hidle : s.busy = false) : (assertReset s).mem = s.mem := by
  rw [assertReset_mem, ownedWrites, activeCommand_of_idle s hidle]
  rfl

/-- Settles O24: only the buffers that the aborted command owns are given free values, and they are the same once the
input is taken from the list. -/
theorem resetAbortsAndKeepsMemory : Obligations.ResetAbortsAndKeepsMemory := by
  unfold Obligations.ResetAbortsAndKeepsMemory
  intro s rest hbuild hinbox
  refine ⟨assertReset { s with inbox := rest }, step_of_input s _ rest hbuild hinbox,
    assertReset_frame _, fun a ha => ?_, assertReset_mem_of_idle { s with inbox := rest }⟩
  refine assertReset_read_outside { s with inbox := rest } a fun i hdecode => ?_
  rw [writeBuffers_hazard_inbox i s s.hazard rest]
  exact ha i hdecode

/-! ### While reset is asserted (R581) -/

theorem irq_of_inReset (s : State) (hreset : s.inReset = true) : irq s = false := by
  simp [irq, hreset]

theorem portAccess_of_inReset (a : PortAccess) (s : State) (hreset : s.inReset = true) :
    portAccess a s = answer 0 (!wellFormedAccess a) s := by
  unfold portAccess
  cases wellFormedAccess a with
  | false => rfl
  | true => simp [hreset]

/-- The engine rests while the block is idle or held in reset (R565, R581). -/
theorem engineTurn_of_resting (s : State) (h : s.busy = false ∨ s.inReset = true) :
    engineTurn s = .next s := by
  rw [engineTurn, if_neg]
  rintro ⟨hbusy, hreset⟩
  obtain hidle | hheld := h
  · simp [hidle] at hbusy
  · exact hreset hheld

/-- What a reset keeps is no register's. -/
theorem readReg_resetRegisters (s : State) (r : Reg) :
    readReg (resetRegisters s) r = readReg State.reset r := by
  cases r <;> rfl

theorem AtReset.readReg {s : State} (h : AtReset s) (r : Reg) : readReg s r = readReg State.reset r := by
  conv_lhs => rw [← h]
  exact readReg_resetRegisters s r

/-- No register shows the reset input or the inputs to come. -/
theorem readReg_releaseReset (s : State) (rest : List Event) (r : Reg) :
    readReg (releaseReset { s with inbox := rest }) r = readReg s r := by
  cases r <;> rfl

/-- Settles O25: the port and the engine look at the reset input first, and the invariant holds the registers at
their reset values until the release. -/
theorem heldInResetNothingHappens : Obligations.HeldInResetNothingHappens := by
  unfold Obligations.HeldInResetNothingHappens
  intro s hreset
  refine ⟨irq_of_inReset s hreset, fun a => portAccess_of_inReset a s hreset,
    fun rest hbuild hinbox => ?_, fun rest hs hbuild hinbox => ?_⟩
  · rw [step_of_input s _ rest hbuild hinbox]
    exact engineTurn_of_resting { s with inbox := rest } (.inr hreset)
  · have hheld : AtReset s := hs.heldInReset hreset
    refine ⟨releaseReset { s with inbox := rest }, step_of_input s _ rest hbuild hinbox, rfl,
      hheld.idle, fun r => ?_⟩
    rw [readReg_releaseReset, hheld.readReg]

/-! ### A block left alone (R565, R595) -/

/-- A command in progress ends idle and done, whether its word is a command or not (R153, R163). -/
theorem runCommand_completed (s t : State) (h : runCommand s = .next t) :
    t.busy = false ∧ t.done = true ∧ t.doneIp = true := by
  obtain ⟨i, -, hexec⟩ | ⟨e, -, rfl⟩ := runCommand_cases s t h
  · exact ⟨(exec_completed i s t hexec).1, exec_done i s t hexec⟩
  · exact ⟨rfl, rfl, rfl⟩

/-- Settles O7: with no input to come the engine has the turn, which always answers a next state. -/
theorem busyBlockCompletes : Obligations.BusyBlockCompletes := by
  unfold Obligations.BusyBlockCompletes
  intro s hbuild hreset hinbox
  rw [step_of_no_input s hbuild hinbox]
  refine ⟨fun hbusy => ?_, fun hidle => engineTurn_of_resting s (.inl hidle)⟩
  obtain ⟨t, ht⟩ := engineTurn_next s
  refine ⟨t, ht, runCommand_completed s t ?_⟩
  rwa [engineTurn_of_busy s hbusy hreset] at ht

end Sys2Proof.Machine
end
